-- ==== Sys2Proof/Word.lean ====
section
/-! DEFINITION. The value types of the machine. The spec defines no value by bits (00_scope.md R12, R13): every
value is an integer in a stated range, so every type here is a bounded natural number. -/

namespace Sys2Proof

/-- One ternary digit, 0, 1 or 2 (00_scope.md R16). -/
abbrev Trit := Fin 3

/-- A word: ten trits, an integer in [0, 59048] (00_scope.md R16). -/
abbrev Tryte := Fin 59049

/-- A memory index. The same range as a word, and a word becomes an address unchanged (00_scope.md R16,
10_state.md R25). -/
abbrev Address := Tryte

/-- An integer in [0, 255] (00_scope.md R12). -/
abbrev Byte := Fin 256

/-- A decode key or rewrite index, an integer in [0, 93] (00_scope.md R16). -/
abbrev Key := Fin 94

/-- The ten trits of a word, least significant first (40_ternary_alu.md R81). -/
abbrev Trits := Vector Trit 10

end Sys2Proof
end

