-- ==== Sys2Proof/Config.lean ====
section
/-! DEFINITION. Constants and parameters (00_scope.md R7 to R11). They are fixed before a run and no step writes them
(10_state.md R31). The constants of 00_scope.md R7 (TRITS 10, MEMSIZE 59049, KEYMOD 94, BIAS 33, PRINT_LO 33, PRINT_HI
126, the output modulus 256) stand in the definitions as the numerals they are. OPMAP and PERM94 are the configuration
that a machine is made with (`Params`); their default values stand in Decode.lean and Machine/Rewrite.lean. -/

namespace Sys2Proof

namespace Config

/-- FILL, left open by the spec: the word that load puts at an address at or above the program's length, as a
function of the loaded program (00_scope.md R10, 70_reset_and_hazards.md R205). No body: nothing is assumed of it but
totality and range (log 3). -/
opaque fill : List Tryte → Address → Tryte

/-- FUEL_MAX, left open by the spec: the largest value the fuel counter can hold (00_scope.md R11). No body
(log 4). -/
opaque fuelMax : Nat

end Config

/-- OPMAP: the decode key of each of the eight opcode names (00_scope.md R8). That the eight are distinct is the
check `OpMap.wf`. -/
structure OpMap where
  setData : Key
  jump : Key
  rotate : Key
  crazy : Key
  output : Key
  input : Key
  halt : Key
  nop : Key
  deriving DecidableEq, Repr

/-- PERM94: entry i is what index i is replaced by (00_scope.md R9). That it is a bijection is the check
`Perm94.wf`. -/
abbrev Perm94 := Vector Key 94

/-- The configuration of a machine: the two parameters that have a default (00_scope.md R8, R9). -/
structure Params where
  /-- OPMAP (00_scope.md R8) -/
  opmap : OpMap
  /-- PERM94 (00_scope.md R9) -/
  perm : Perm94
  deriving DecidableEq, Repr

end Sys2Proof
end

