-- ==== Sys2Proof/Syntax.lean ====
section
/-! DEFINITION. The instructions: one constructor per row of spec/opcode_table.json. -/

namespace Sys2Proof

/-- The nine outcomes of decode: PMT's closed set of eight opcodes and `Invalid` (00_scope.md R16, 30_encoding.md R63,
R66). No instruction has an operand field (30_encoding.md R67). -/
inductive Instr where
  /-- D is loaded from the slot D names (43_pointer_control.md R130). -/
  | setData
  /-- C is loaded from the slot D names (43_pointer_control.md R131). -/
  | jump
  /-- The slot D names is rotated by one trit, and A gets the result (44_alu_memory_ops.md R140). -/
  | rotate
  /-- The slot D names is combined with A by the crazy operation, and A gets the result (44_alu_memory_ops.md R141). -/
  | crazy
  /-- A mod 256 is emitted (45_io_system.md R150). -/
  | output
  /-- A gets the next input byte, or the run ends (45_io_system.md R151). -/
  | input
  /-- The run ends (45_io_system.md R152). -/
  | halt
  /-- No operand effect (45_io_system.md R153). -/
  | nop
  /-- The outcome of decode for each of the 86 keys outside OPMAP; no operand effect (45_io_system.md R154). -/
  | invalid
  deriving DecidableEq, Repr

end Sys2Proof
end

