-- ==== Sys2Proof/WellFormed.lean ====
section
/-! DEFINITION. What a well-formed instruction and a well-formed parameter are. The checks on a program text are load's
own (Machine/Load.lean). -/

namespace Sys2Proof

/-- Every instruction is well formed: none has an operand that could be out of range (30_encoding.md R67). -/
def Instr.wf : Instr → Bool
  | .setData => true
  | .jump => true
  | .rotate => true
  | .crazy => true
  | .output => true
  | .input => true
  | .halt => true
  | .nop => true
  | .invalid => true

/-- The eight keys of a map, in PMT's order of the names. -/
def OpMap.keys (m : OpMap) : List Key :=
  [m.setData, m.jump, m.rotate, m.crazy, m.output, m.input, m.halt, m.nop]

/-- OPMAP's constraint: eight distinct values, each in [0, 93] (00_scope.md R8; the range is `Key`'s). -/
abbrev OpMap.wf (m : OpMap) : Prop := m.keys.Nodup

/-- PERM94's constraint: a bijection on [0, 93] (00_scope.md R9); on 94 entries in [0, 93] that is to repeat none. -/
abbrev Perm94.wf (p : Perm94) : Prop := p.toList.Nodup

/-- Both constraints: what makes two tables a configuration of this hardware (00_scope.md R8, R9). -/
abbrev Params.wf (P : Params) : Prop := P.opmap.wf ∧ Perm94.wf P.perm

end Sys2Proof
end

