-- ==== Sys2Proof/Decode.lean ====
section
/-! DEFINITION. The decoder (30_encoding.md R60 to R69), total on every word at every address, and after it the
encoder (R71). The opcode is no field of the word: it is a function of the word and of the address the word stands at.
-/

namespace Sys2Proof

/-- The decode key, (w - 33 + addr) mod 94 with the Euclidean remainder (30_encoding.md R61), in that rule's form with
no negative intermediate: -33 = 61 (mod 94). The operand is the whole word (R62). -/
def key (w : Tryte) (addr : Address) : Key :=
  ⟨(w.val + addr.val + 61) % 94, Nat.mod_lt _ (by decide)⟩

/-- `decode` for any OPMAP: the name whose key it is, `invalid` if it is no name's (30_encoding.md R63). -/
def decodeWith (m : OpMap) (w : Tryte) (addr : Address) : Instr :=
  let k := key w addr
  if k = m.setData then .setData
  else if k = m.jump then .jump
  else if k = m.rotate then .rotate
  else if k = m.crazy then .crazy
  else if k = m.output then .output
  else if k = m.input then .input
  else if k = m.halt then .halt
  else if k = m.nop then .nop
  else .invalid

/-- The default OPMAP (30_encoding.md R64). PRESUMED: the spec itself takes the eight values from general knowledge
(log 5). -/
def opmap : OpMap where
  setData := 7
  jump := 65
  rotate := 6
  crazy := 29
  output := 66
  input := 84
  halt := 48
  nop := 35

/-- The decoder under the default OPMAP, which is that of `State.reset` (30_encoding.md R63 with R64). -/
def decode (w : Tryte) (addr : Address) : Instr := decodeWith opmap w addr

/-- OPMAP[op]; `Invalid` is no name and has no key of its own (00_scope.md R8, 30_encoding.md R65). -/
def OpMap.keyOf (m : OpMap) : Instr → Option Key
  | .setData => some m.setData
  | .jump => some m.jump
  | .rotate => some m.rotate
  | .crazy => some m.crazy
  | .output => some m.output
  | .input => some m.input
  | .halt => some m.halt
  | .nop => some m.nop
  | .invalid => none

/-- The printable word whose key at `addr` is `k`: 33 + ((k - addr) mod 94) (30_encoding.md R71, its first formula). The
words with that key are this word + 94 j. DEDUCED from R61 and R69: R71's last formula prints this word - 33 + 94 j
(log 27). -/
def placeKey (k : Key) (addr : Address) : Tryte :=
  ⟨33 + (k.val + (94 - addr.val % 94)) % 94, by omega⟩

/-- `place(op, addr)` for any OPMAP; `none` for `Invalid`, which no single key selects (30_encoding.md R71). -/
def placeWith (m : OpMap) (i : Instr) (addr : Address) : Option Tryte :=
  (m.keyOf i).map fun k => placeKey k addr

/-- The key that the encoder writes for `Invalid`, the least unmatched one. DESIGN CHOICE: any of the 86 unmatched keys
would do (log 20). -/
def invalidKey (m : OpMap) : Key := ((List.finRange 94).find? fun k => decide (k ∉ m.keys)).getD 0

/-- The printable word of an instruction at an address, for any OPMAP (30_encoding.md R71). -/
def encodeWith (m : OpMap) (i : Instr) (addr : Address) : Tryte :=
  placeKey ((m.keyOf i).getD (invalidKey m)) addr

/-- The encoder under the default OPMAP (30_encoding.md R71 with R64). -/
def encode (i : Instr) (addr : Address) : Tryte := encodeWith opmap i addr

/-- The instruction that the decoder of `State.reset` reads from the word `w` at address 0, where the first fetch
after load is (10_state.md R22); `none` for a number that is no Tryte. The table numbers no bits: `w` is the word's
integer value, and a number of bits says nothing more (30_encoding.md R60, R72; log 8). -/
def decodeTableWord (_nbits w : Nat) : Option Instr :=
  if h : w < 59049 then some (decode ⟨w, h⟩ 0) else none

end Sys2Proof
end

