-- ==== Sys2Proof/Machine/Alu.lean ====
section
/-! DEFINITION. The ternary ALU (40_ternary_alu.md): seven pure functions, total, without flag or exception (R80). -/

namespace Sys2Proof.Machine

/-- `trit_i(x) = (x div 3^i) mod 3` (00_scope.md R15). -/
def trit (i : Nat) (x : Tryte) : Trit := ⟨x.val / 3 ^ i % 3, Nat.mod_lt _ (by decide)⟩

/-- The ten trits, least significant first (R81). -/
def decompose (x : Tryte) : Trits :=
  #v[trit 0 x, trit 1 x, trit 2 x, trit 3 x, trit 4 x, trit 5 x, trit 6 x, trit 7 x, trit 8 x, trit 9 x]

/-- The sum of t[i] · 3^i (R82). -/
def compose (t : Trits) : Tryte :=
  ⟨t[0].val + 3 * t[1].val + 9 * t[2].val + 27 * t[3].val + 81 * t[4].val + 243 * t[5].val + 729 * t[6].val
    + 2187 * t[7].val + 6561 * t[8].val + 19683 * t[9].val, by omega⟩

/-- The nine-entry table, `a` down the side and `b` across the top (R84). -/
def crazyTable : Vector (Vector Trit 3) 3 := #v[#v[1, 0, 0], #v[1, 0, 2], #v[2, 2, 1]]

/-- `crazy_trit(a, b) = table[a][b]` (R84). -/
def crazyTrit (a b : Trit) : Trit := (crazyTable.get a).get b

/-- `crazy_trit` on each of the ten trit positions, recomposed (R86). -/
def crazy (a b : Tryte) : Tryte :=
  compose #v[crazyTrit (trit 0 a) (trit 0 b), crazyTrit (trit 1 a) (trit 1 b), crazyTrit (trit 2 a) (trit 2 b),
    crazyTrit (trit 3 a) (trit 3 b), crazyTrit (trit 4 a) (trit 4 b), crazyTrit (trit 5 a) (trit 5 b),
    crazyTrit (trit 6 a) (trit 6 b), crazyTrit (trit 7 a) (trit 7 b), crazyTrit (trit 8 a) (trit 8 b),
    crazyTrit (trit 9 a) (trit 9 b)]

/-- The trit of position 9 moves to position 0, every other one up by one place (R87). The name is PMT's; on the number
it is a multiplication by 3 with the top trit carried round (R88). -/
def rotateRight (x : Tryte) : Tryte :=
  compose #v[trit 9 x, trit 0 x, trit 1 x, trit 2 x, trit 3 x, trit 4 x, trit 5 x, trit 6 x, trit 7 x, trit 8 x]

/-- (a + b) mod 59049 (R90). -/
def addWrap (a b : Tryte) : Tryte := ⟨(a.val + b.val) % 59049, Nat.mod_lt _ (by decide)⟩

/-- (a - b) mod 59049, in the form with no negative intermediate (R91). No opcode and no sub-step uses it (R93). -/
def subWrap (a b : Tryte) : Tryte := ⟨(a.val + 59049 - b.val) % 59049, Nat.mod_lt _ (by decide)⟩

end Sys2Proof.Machine
end

