-- ==== Sys2Proof/Machine/Rewrite.lean ====
section
/-! DEFINITION. The self-modification engine's function (41_self_modification.md R100 to R102). Where and when it is
applied is `selfModify` of Ops.lean. -/

namespace Sys2Proof.Machine

/-- The rewrite index, (w - 33) mod 94 with the Euclidean remainder (R101), in that rule's form (w + 61) mod 94. The
operand is the whole word. -/
def rewriteIndex (w : Tryte) : Key := ⟨(w.val + 61) % 94, Nat.mod_lt _ (by decide)⟩

/-- `rewrite(w) = PERM94[(w - 33) mod 94] + 33`, for any PERM94 (R101). -/
def rewriteWith (p : Perm94) (w : Tryte) : Tryte := ⟨(p.get (rewriteIndex w)).val + 33, by omega⟩

/-- The default PERM94, entry 0 first (R102). PRESUMED: the spec itself takes the table from general knowledge
(log 6). -/
def perm94 : Perm94 := #v[
  20, 89, 60, 5, 70, 80, 83, 88, 69, 81, 3, 7, 86, 68, 19, 90, 54, 47, 8, 39,
  12, 57, 77, 11, 58, 4, 59, 18, 67, 43, 10, 48, 26, 29, 52, 0, 79, 41, 50, 22,
  17, 37, 71, 46, 32, 16, 34, 33, 21, 85, 61, 28, 40, 62, 15, 14, 23, 91, 73, 82,
  65, 24, 76, 27, 13, 51, 53, 64, 66, 63, 84, 56, 9, 44, 42, 6, 55, 93, 87, 35,
  75, 92, 49, 36, 78, 74, 45, 25, 2, 30, 38, 1, 72, 31]

/-- The rewrite under the default PERM94, which is that of `State.reset` (R101 with R102). -/
def rewrite (w : Tryte) : Tryte := rewriteWith perm94 w

/-- The default configuration: OPMAP of 30_encoding.md R64 and PERM94 of R102. PRESUMED, as each of the two (log 5,
6). -/
def Params.default : Params := { opmap := opmap, perm := perm94 }

end Sys2Proof.Machine
end

