-- ==== Sys2Proof/Machine/State.lean ====
section
/-! DEFINITION. The state of one machine instance (10_state.md R20), as plain data, and its reset value. -/

namespace Sys2Proof.Machine

/-- Why a load failed (60_exceptions.md R172). -/
inductive LoadErrorKind where
  /-- The program text has length 0. -/
  | emptyProgram
  /-- The program text has more than 59049 bytes. -/
  | tooLarge
  /-- The byte at `pos`, counted from 0, is the first outside [33, 126]. -/
  | invalidByte (pos : Nat)
  deriving DecidableEq, Repr

/-- STATE (10_state.md R26). All but `running` are terminal. -/
inductive RunState where
  | running
  /-- The Halt opcode was executed. -/
  | haltedExplicit
  /-- FUEL was 0 when a step was asked for, or a step's decrement brought it to 0. -/
  | haltedFuelExhausted
  /-- The Input opcode was executed with IN empty. -/
  | haltedInputExhausted
  /-- The load failed. -/
  | loadError (kind : LoadErrorKind)
  deriving DecidableEq, Repr

/-- One listed slot: its address and its word. A word is the smallest addressable unit (20_memory.md R40; log 1). -/
abbrev Cell := Address × Tryte

/-- MEM (10_state.md R21). `image` is the program that load placed, FILL's argument; `cells` lists the slots whose word
differs from what load put there, in rising order of address (log 2). -/
@[ext]
structure Memory where
  image : List Tryte
  cells : List Cell
  deriving DecidableEq, Repr

/-- The state of a loaded machine: every entry of 10_state.md R20, and the configuration it was made with. -/
@[ext]
structure State where
  /-- MEM (R21) -/
  mem : Memory
  /-- C, the code pointer (R22) -/
  c : Address
  /-- D, the data pointer (R23) -/
  d : Address
  /-- A, the accumulator (R24) -/
  a : Tryte
  /-- FUEL (R27) -/
  fuel : Nat
  /-- STATE (R26) -/
  runState : RunState
  /-- IN, the input still unread (R32) -/
  input : List Byte
  /-- OUT, the bytes emitted so far, oldest first (R32) -/
  output : List Byte
  /-- The configuration: OPMAP and PERM94 (00_scope.md R8, R9). No state of the spec's, and no step writes it (R31); it
  stands here so that a machine runs under any two tables (log 28) -/
  params : Params
  deriving DecidableEq, Repr

/-- The machine right after reset: the register values of a successful load (10_state.md R34), with no program placed,
no input supplied and nothing listed in memory (log 7), under the default OPMAP and PERM94 (log 5, 6). -/
def State.reset : State where
  mem := { image := [], cells := [] }
  c := 0
  d := 0
  a := 0
  fuel := 0
  runState := .running
  input := []
  output := []
  params := Params.default

/-- Why a step has no next state. -/
inductive Fault where
  /-- Raised by `step` alone, in a terminal STATE: no step is enabled and the run is over (42_step_cycle.md R111,
  60_exceptions.md R176). It is no failure of the program (60_exceptions.md R180). Safe: nothing changes (log 9). -/
  | runOver (r : RunState)
  deriving DecidableEq, Repr

/-- Why an operation is not carried out. -/
inductive Refusal where
  /-- Raised by an arm of `exec` whose instruction has no meaning yet; no arm raises it now. Safe. -/
  | notModelled (mnemonic : String)
  /-- Raised by `mkAddress` at the host boundary, never by a step: the integer is no Address (20_memory.md R41,
  60_exceptions.md R174). Safe. -/
  | outOfRange
  /-- Raised by `run`, never by a step: the budget is above FUEL_MAX, so the call is not made
  (93_implementation_defined.md U4). Safe. -/
  | budgetAboveFuelMax
  /-- Raised by `hostMove`, never by a step: the two tables are no OPMAP and PERM94, so that no machine of this hardware
  has them (00_scope.md R8, R9). Safe. -/
  | illFormedParams
  /-- Raised by `hostMove`, never by a step: there is no instance to act on (10_state.md R36). Safe. -/
  | noInstance
  /-- Raised by `hostMove`, never by a step: an instance is loaded once (70_reset_and_hazards.md R200). Safe. -/
  | alreadyLoaded
  /-- Raised by `hostMove`, never by a step: the host can only lower the FUEL of a running machine
  (42_step_cycle.md R122; log 19). Safe. -/
  | notLower
  deriving DecidableEq, Repr

/-- A machine instance: what load makes. A failed one has its error and nothing else, no memory and no registers
(10_state.md R35; log 10). -/
inductive Vm where
  | loaded (s : State)
  | failed (kind : LoadErrorKind)
  deriving DecidableEq, Repr

/-- What `run` returns: the output with the terminal reason, or the load error alone (42_step_cycle.md R121). -/
inductive ExecutionResult where
  | ran (output : List Byte) (reason : RunState)
  | loadError (kind : LoadErrorKind)
  deriving DecidableEq, Repr

/-- What the host can do to an instance (10_state.md R33). `load` names the configuration of the new machine besides the
program and the input (00_scope.md R8, R9; log 28). `run` names the budget and, for each step of the run in
order, the smaller FUEL that the host writes before it, if any (42_step_cycle.md R122). -/
inductive HostMove where
  | load (P : Params) (text input : List Byte)
  | run (maxSteps : Nat) (cuts : List (Option Nat))
  | lowerFuel (n : Nat)
  | discard
  deriving DecidableEq, Repr

/-- One memory access of a step (20_memory.md R55). -/
inductive Access where
  | read (addr : Address)
  | write (addr : Address)
  deriving DecidableEq, Repr

end Sys2Proof.Machine
end

