-- ==== Sys2Proof/Machine/Flags.lean ====
section
/-! DEFINITION. The machine has no flag and no condition code, and no operation computes one (10_state.md R28). What
steers control besides C is STATE alone; this file holds its tests and the numeric codes of the closed sets. -/

namespace Sys2Proof.Machine

/-- PMT's Boolean "halted?", read as STATE != Running (10_state.md R20, 90_conflicts.md C13). -/
def halted (s : State) : Bool := decide (s.runState ≠ .running)

/-- LoadError, with whatever kind (10_state.md R35). -/
def RunState.isLoadError : RunState → Bool
  | .running => false
  | .haltedExplicit => false
  | .haltedFuelExhausted => false
  | .haltedInputExhausted => false
  | .loadError _ => true

/-- The ordinal of a run state; no program can observe it (10_state.md R37; log 21). -/
def RunState.code : RunState → Nat
  | .running => 0
  | .haltedExplicit => 1
  | .haltedFuelExhausted => 2
  | .haltedInputExhausted => 3
  | .loadError _ => 4

/-- The ordinal of a load error kind (10_state.md R37). -/
def LoadErrorKind.code : LoadErrorKind → Nat
  | .emptyProgram => 0
  | .tooLarge => 1
  | .invalidByte _ => 2

/-- The ordinal of an opcode (10_state.md R37). -/
def opcodeCode : Instr → Nat
  | .setData => 0
  | .jump => 1
  | .rotate => 2
  | .crazy => 3
  | .output => 4
  | .input => 5
  | .halt => 6
  | .nop => 7
  | .invalid => 8

end Sys2Proof.Machine
end

