-- ==== Sys2Proof/Machine/Memory.lean ====
section
/-! DEFINITION. The bounded memory array (20_memory.md R40 to R47): total read and write of one word at an Address, over
a sparse list in one canonical form. -/

namespace Sys2Proof.Machine

/-- The word of the first cell at `x`, if `x` is listed. -/
def lookupCell (x : Address) : List Cell → Option Tryte
  | [] => none
  | (b, u) :: rest => if x = b then some u else lookupCell x rest

/-- The cells with `x` holding `v`, in rising order. -/
def insertCell (x : Address) (v : Tryte) : List Cell → List Cell
  | [] => [(x, v)]
  | (b, u) :: rest =>
    if x < b then (x, v) :: (b, u) :: rest
    else if x = b then (x, v) :: rest
    else (b, u) :: insertCell x v rest

/-- The cells without `x`. -/
def eraseCell (x : Address) : List Cell → List Cell
  | [] => []
  | (b, u) :: rest => if x = b then eraseCell x rest else (b, u) :: eraseCell x rest

/-- What an unlisted address reads as: what load put there, the i-th program word below the program's length and FILL of
the program at and above it (10_state.md R34, 70_reset_and_hazards.md R203 to R205). -/
def loadedWord (image : List Tryte) (x : Address) : Tryte :=
  match image[x.val]? with
  | some w => w
  | none => Config.fill image x

/-- `MemRead(x, 1)` (20_memory.md R42). -/
def Memory.read (m : Memory) (x : Address) : Tryte :=
  match lookupCell x m.cells with
  | some v => v
  | none => loadedWord m.image x

/-- `MemWrite(x, 1, v)` (20_memory.md R43). Writing the word that load put there unlists the slot, so that the form
stays canonical. -/
def Memory.write (m : Memory) (x : Address) (v : Tryte) : Memory :=
  if v = loadedWord m.image x then { m with cells := eraseCell x m.cells }
  else { m with cells := insertCell x v m.cells }

/-- The memory that load leaves for a program of these words (70_reset_and_hazards.md R203). -/
def Memory.ofImage (image : List Tryte) : Memory := { image := image, cells := [] }

/-- The canonical form: addresses strictly rising, and no listed word equal to what the address would read as
unlisted. -/
abbrev Memory.wf (m : Memory) : Prop :=
  m.cells.Pairwise (fun x y => x.1 < y.1) ∧ (m.cells.all fun x => x.2 != loadedWord m.image x.1) = true

end Sys2Proof.Machine
end

