-- ==== Sys2Proof/Machine/Operands.lean ====
section
/-! DEFINITION. The operand forms (30_encoding.md R67, 43_pointer_control.md R133): none is written in the instruction;
there is one addressing mode, register indirect through D, and two conversions between a word and a byte. -/

namespace Sys2Proof.Machine

/-- The operand word, MEM[D] (43_pointer_control.md R133). -/
def operand (s : State) : Tryte := s.mem.read s.d

/-- `zext`: the Tryte of the same integer value (00_scope.md R15, 45_io_system.md R151). -/
def zext (b : Byte) : Tryte := ⟨b.val, by omega⟩

/-- The byte that a word is emitted as, its integer value mod 256 (45_io_system.md R150). -/
def outputByte (a : Tryte) : Byte := ⟨a.val % 256, Nat.mod_lt _ (by decide)⟩

end Sys2Proof.Machine
end

