-- ==== Sys2Proof/Machine/Ops.lean ====
section
/-! DEFINITION. The operations that every instruction shares: entering a terminal state, and sub-steps 1 and 3 to 5 of
the step (42_step_cycle.md R110). -/

namespace Sys2Proof.Machine

/-- `halt S`: STATE <- S if and only if STATE = Running; nothing else is written and nothing is saved (00_scope.md R15,
60_exceptions.md R176). This machine's form of taking an exception; there is no return from it (60_exceptions.md R178),
and it does not end the step (42_step_cycle.md R117). -/
def halt (r : RunState) (s : State) : State :=
  if s.runState = .running then { s with runState := r } else s

/-- The zero-fuel check's effect: HaltedFuelExhausted and nothing else (42_step_cycle.md R112). -/
def zeroFuelHalt (s : State) : State := halt .haltedFuelExhausted s

/-- Sub-step 1: fetch MEM[C] and decode it with the address C, by the machine's OPMAP (42_step_cycle.md R113,
30_encoding.md R63). -/
def fetchInstr (s : State) : Instr := decodeWith s.params.opmap (s.mem.read s.c) s.c

/-- The store that Rotate and Crazy share: A <- v and MEM[D] <- v (44_alu_memory_ops.md R142). -/
def storeResult (v : Tryte) (s : State) : State := { s with a := v, mem := s.mem.write s.d v }

/-- Sub-step 3: the slot at the pre-step code pointer is replaced by the rewrite of the word it holds now, after the
handler, by the machine's PERM94 (41_self_modification.md R101, R103, R105; log 16). -/
def selfModify (c0 : Address) (s : State) : State :=
  { s with mem := s.mem.write c0 (rewriteWith s.params.perm (s.mem.read c0)) }

/-- Sub-step 4: C moves on by one unless the handler was Jump, and D moves on by one in every case
(42_step_cycle.md R116; log 13). -/
def advance (jumped : Bool) (s : State) : State :=
  { s with c := if jumped then s.c else addWrap s.c 1, d := addWrap s.d 1 }

/-- Sub-step 5: FUEL goes down by one, and at 0 the run ends unless it has ended in sub-step 2
(42_step_cycle.md R118, R119; log 15). -/
def spendFuel (s : State) : State :=
  if s.fuel - 1 = 0 then halt .haltedFuelExhausted { s with fuel := s.fuel - 1 } else { s with fuel := s.fuel - 1 }

/-- Sub-steps 3, 4 and 5, in this order, on the state that the handler left. They follow every handler, one that has
entered a terminal state too (42_step_cycle.md R117; log 14). -/
def completeStep (c0 : Address) (jumped : Bool) (s : State) : State :=
  spendFuel (advance jumped (selfModify c0 s))

/-- `mk_address`: the only fallible construction of an Address, at the host boundary (20_memory.md R41). -/
def mkAddress (n : Int) : Except Refusal Address :=
  if h : 0 ≤ n ∧ n ≤ 59048 then .ok ⟨n.toNat, by omega⟩ else .error .outOfRange

end Sys2Proof.Machine
end

