-- ==== Sys2Proof/Machine/AluMemory.lean ====
section
/-! DEFINITION. Read-modify-write opcodes (44_alu_memory_ops.md). A meaning is the whole of the step after decode. -/

namespace Sys2Proof.Machine

/-- Rotate: v <- rotate_right(MemRead(D, 1)); A <- v; MemWrite(D, 1, v) (R140). -/
def execRotate (s : State) : Host.Outcome State Fault Refusal :=
  .next (completeStep s.c false (storeResult (rotateRight (operand s)) s))

/-- Crazy: v <- crazy(A, MemRead(D, 1)); A <- v; MemWrite(D, 1, v), with the accumulator as the first operand (R141). -/
def execCrazy (s : State) : Host.Outcome State Fault Refusal :=
  .next (completeStep s.c false (storeResult (crazy s.a (operand s)) s))

end Sys2Proof.Machine
end

