-- ==== Sys2Proof/Machine/IoSystem.lean ====
section
/-! DEFINITION. I/O and system opcodes and the Invalid outcome (45_io_system.md). A meaning is the whole of the step
after decode. -/

namespace Sys2Proof.Machine

/-- `next_input_byte()` into A: the first byte of IN, which IN loses, or HaltedInputExhausted with A unchanged (R151).
-/
def takeInput (s : State) : State :=
  match s.input with
  | [] => halt .haltedInputExhausted s
  | b :: rest => { s with a := zext b, input := rest }

/-- Output: OUT <- OUT ++ [A mod 256] (R150). -/
def execOutput (s : State) : Host.Outcome State Fault Refusal :=
  .next (completeStep s.c false { s with output := s.output ++ [outputByte s.a] })

/-- Input (R151). On exhaustion the step still completes (42_step_cycle.md R117). -/
def execInput (s : State) : Host.Outcome State Fault Refusal :=
  .next (completeStep s.c false (takeInput s))

/-- Halt: HaltedExplicit, and the step completes (R152). -/
def execHalt (s : State) : Host.Outcome State Fault Refusal :=
  .next (completeStep s.c false (halt .haltedExplicit s))

/-- Nop: the handler does nothing; the rest of the step is not nothing (R153). -/
def execNop (s : State) : Host.Outcome State Fault Refusal :=
  .next (completeStep s.c false s)

/-- Invalid: the handler does nothing, and nothing records that an undecodable word was executed (R154). -/
def execInvalid (s : State) : Host.Outcome State Fault Refusal :=
  .next (completeStep s.c false s)

end Sys2Proof.Machine
end

