-- ==== Sys2Proof/Machine/PointerControl.lean ====
section
/-! DEFINITION. Pointer and control opcodes (43_pointer_control.md). A meaning is the whole of the step after decode:
sub-step 2 of the instruction, then `completeStep`. -/

namespace Sys2Proof.Machine

/-- SetData: D <- MemRead(D, 1) (R130). -/
def execSetData (s : State) : Host.Outcome State Fault Refusal :=
  .next (completeStep s.c false { s with d := operand s })

/-- Jump: C <- MemRead(D, 1), and the advance of C is skipped (R131). -/
def execJump (s : State) : Host.Outcome State Fault Refusal :=
  .next (completeStep s.c true { s with c := operand s })

end Sys2Proof.Machine
end

