-- ==== Sys2Proof/Machine/Dispatch.lean ====
section
/-! DEFINITION. Sub-step 2's dispatch: exactly one of nine handlers, the case analysis exhaustive (42_step_cycle.md
R114). Each meaning carries the instruction through sub-steps 2 to 5. -/

namespace Sys2Proof.Machine

def exec (i : Instr) (s : State) : Host.Outcome State Fault Refusal :=
  match i with
  | .setData => Sys2Proof.Machine.execSetData s
  | .jump => Sys2Proof.Machine.execJump s
  | .rotate => Sys2Proof.Machine.execRotate s
  | .crazy => Sys2Proof.Machine.execCrazy s
  | .output => Sys2Proof.Machine.execOutput s
  | .input => Sys2Proof.Machine.execInput s
  | .halt => Sys2Proof.Machine.execHalt s
  | .nop => Sys2Proof.Machine.execNop s
  | .invalid => Sys2Proof.Machine.execInvalid s

end Sys2Proof.Machine
end

