-- ==== Sys2Proof/Machine/Fetch.lean ====
section
/-! DEFINITION. How a word is put where the machine fetches, for `State.withFetchWord`. -/

namespace Sys2Proof.Machine

/-- The memory with `w` at address 0: where no program is loaded, the memory of a one-word program; else the memory
with that slot written. -/
def Memory.withWordAtZero (m : Memory) (w : Tryte) : Memory :=
  match m.image with
  | [] => Memory.ofImage [w]
  | _ :: _ => m.write 0 w

/-- Load and run, as far as one instruction needs them: the word at address 0, C there, STATE Running and at least one
unit of FUEL (70_reset_and_hazards.md R206; log 8). -/
def placeForFetch (s : State) (w : Tryte) : State :=
  { s with mem := s.mem.withWordAtZero w, c := 0, fuel := max s.fuel 1, runState := .running }

end Sys2Proof.Machine
end

