-- ==== Sys2Proof/Machine/Step.lean ====
section
/-! DEFINITION. One step (42_step_cycle.md R110 to R113). -/

namespace Sys2Proof.Machine

/-- One step. In a terminal STATE no step is enabled and the run is over (R111; log 9). With FUEL 0 the zero-fuel check
ends the run and no instruction is executed (R112). Else the word at C is fetched, decoded with its address and
executed (R113). -/
def step (s : State) : Host.Outcome State Fault Refusal :=
  if s.runState ≠ .running then .fault (.runOver s.runState)
  else if s.fuel = 0 then .next (zeroFuelHalt s)
  else exec (fetchInstr s) s

/-- `s` made ready to execute the word `w` in its very next step; `s` itself for a number that is no Tryte. It stands
for the host's load and run of a program (log 8). -/
def State.withFetchWord (s : State) (_nbits w : Nat) : State :=
  if h : w < 59049 then placeForFetch s ⟨w, h⟩ else s

end Sys2Proof.Machine
end

