-- ==== Sys2Proof/Machine/Accesses.lean ====
section
/-! DEFINITION. The memory accesses of one full step, in order (20_memory.md R55). -/

namespace Sys2Proof.Machine

/-- The accesses of sub-step 2 (20_memory.md R55 (2)). -/
def handlerAccesses (i : Instr) (d : Address) : List Access :=
  match i with
  | .setData => [.read d]
  | .jump => [.read d]
  | .rotate => [.read d, .write d]
  | .crazy => [.read d, .write d]
  | .output => []
  | .input => []
  | .halt => []
  | .nop => []
  | .invalid => []

/-- The accesses of the full step that starts in `s`: the fetch, the handler's, the rewrite's (20_memory.md R55). -/
def stepAccesses (s : State) : List Access :=
  .read s.c :: handlerAccesses (fetchInstr s) s.d ++ [.read s.c, .write s.c]

/-- The address of an access. -/
def Access.addr : Access → Address
  | .read x => x
  | .write x => x

end Sys2Proof.Machine
end

