-- ==== Sys2Proof/Machine/Reference.lean ====
section
/-! DEFINITION. The spec's pseudocode of the step (42_step_cycle.md R110) written down line by line, with OPMAP and
PERM94 as arguments. It is a second writing of the machine, beside `step`, which goes through exec; that the two
agree, whatever the machine's configuration, is an obligation. -/

namespace Sys2Proof.Machine

/-- Sub-step 2 as the case of R110: the state the handler leaves, and `jumped`. -/
def referenceHandler (i : Instr) (s : State) : State × Bool :=
  match i with
  | .setData => ({ s with d := s.mem.read s.d }, false)
  | .jump => ({ s with c := s.mem.read s.d }, true)
  | .rotate =>
    let v := rotateRight (s.mem.read s.d)
    ({ s with a := v, mem := s.mem.write s.d v }, false)
  | .crazy =>
    let v := crazy s.a (s.mem.read s.d)
    ({ s with a := v, mem := s.mem.write s.d v }, false)
  | .output => ({ s with output := s.output ++ [⟨s.a.val % 256, Nat.mod_lt _ (by decide)⟩] }, false)
  | .input =>
    match s.input with
    | [] => (halt .haltedInputExhausted s, false)
    | b :: rest => ({ s with a := zext b, input := rest }, false)
  | .halt => (halt .haltedExplicit s, false)
  | .nop => (s, false)
  | .invalid => (s, false)

/-- `Step()` of R110. -/
def referenceStep (P : Params) (s : State) : Host.Outcome State Fault Refusal :=
  if s.runState = .running then
    if s.fuel = 0 then .next (halt .haltedFuelExhausted s)
    else
      let c0 := s.c
      let op := decodeWith P.opmap (s.mem.read c0) c0
      let h := referenceHandler op s
      let s2 := h.1
      let s3 := { s2 with mem := s2.mem.write c0 (rewriteWith P.perm (s2.mem.read c0)) }
      let s4 := if h.2 then s3 else { s3 with c := addWrap s3.c 1 }
      let s5 := { s4 with d := addWrap s4.d 1 }
      let s6 := { s5 with fuel := s5.fuel - 1 }
      .next (if s6.fuel = 0 then halt .haltedFuelExhausted s6 else s6)
  else .fault (.runOver s.runState)

end Sys2Proof.Machine
end

