-- ==== Sys2Proof/Machine/Load.lean ====
section
/-! DEFINITION. Load, this hardware's reset (70_reset_and_hazards.md R200 to R205). -/

namespace Sys2Proof.Machine

/-- A byte in [33, 126] (00_scope.md R18). -/
def printable (b : Byte) : Bool := decide (33 ≤ b.val ∧ b.val ≤ 126)

/-- The zero-based index of the first byte outside [33, 126], if there is one (60_exceptions.md R172). -/
def firstBadByte : List Byte → Option Nat
  | [] => none
  | b :: rest => if printable b then (firstBadByte rest).map (· + 1) else some 0

/-- The three checks, in the order of 60_exceptions.md R172 (70_reset_and_hazards.md R202; log 17). -/
def validate (text : List Byte) : Option LoadErrorKind :=
  if text.length = 0 then some .emptyProgram
  else if 59049 < text.length then some .tooLarge
  else (firstBadByte text).map .invalidByte

/-- Byte i as the Tryte of the same integer value, for address i (70_reset_and_hazards.md R204). -/
def programImage (text : List Byte) : List Tryte := text.map zext

/-- `load(text, input)` of a machine with the configuration `P` (70_reset_and_hazards.md R203). A failed load leaves its
error and nothing else (10_state.md R35). -/
def load (P : Params) (text input : List Byte) : Vm :=
  match validate text with
  | some kind => .failed kind
  | none =>
    .loaded
      { mem := Memory.ofImage (programImage text), c := 0, d := 0, a := 0, fuel := 0, runState := .running,
        input := input, output := [], params := P }

/-- STATE of an instance, of a failed one too (10_state.md R35). -/
def Vm.runState : Vm → RunState
  | .loaded s => s.runState
  | .failed kind => .loadError kind

end Sys2Proof.Machine
end

