-- ==== Sys2Proof/Machine/Run.lean ====
section
/-! DEFINITION. Run, cancellation and the host's moves (42_step_cycle.md R120 to R122, 10_state.md R33). -/

namespace Sys2Proof.Machine

/-- Cancellation: the host replaces FUEL by a smaller number, between two steps of a running machine
(42_step_cycle.md R122; log 19). -/
def lowerFuel (n : Nat) (s : State) : Option State :=
  if s.runState = .running ∧ n < s.fuel then some { s with fuel := n } else none

/-- What the host does before one step: lower FUEL to `n`, where that is a lowering, or nothing. -/
def applyCut (cut : Option Nat) (s : State) : State :=
  match cut with
  | none => s
  | some n => (lowerFuel n s).getD s

/-- Step while a step is enabled, at most `k` times, the host's cuts coming one before each step. -/
def runUnder : Nat → List (Option Nat) → State → State
  | 0, _, s => s
  | k + 1, cuts, s =>
    match step (applyCut cuts.head?.join s) with
    | .next t => runUnder k cuts.tail t
    | .fault _ => s
    | .refused _ => s

/-- Run's first act: FUEL <- max_steps, if Running (42_step_cycle.md R120). -/
def writeBudget (maxSteps : Nat) (s : State) : State :=
  if s.runState = .running then { s with fuel := maxSteps } else s

/-- The terminal state of a run: a budget of N allows at most N full steps and one zero-fuel check
(42_step_cycle.md R124). -/
def runLoaded (maxSteps : Nat) (cuts : List (Option Nat)) (s : State) : State :=
  runUnder (maxSteps + 1) cuts (writeBudget maxSteps s)

/-- The result that a state gives (42_step_cycle.md R121). -/
def resultOf (s : State) : ExecutionResult := .ran s.output s.runState

/-- `run(vm, max_steps)` under the host's cuts: the instance after the run, and the result (42_step_cycle.md R120). On a
failed instance, and on a halted one, nothing is executed. -/
def runVm (maxSteps : Nat) (cuts : List (Option Nat)) : Vm → Vm × ExecutionResult
  | .failed kind => (.failed kind, .loadError kind)
  | .loaded s => let t := runLoaded maxSteps cuts s; (.loaded t, resultOf t)

/-- `run(vm, max_steps)` of a host that does not cancel. -/
def run (maxSteps : Nat) (vm : Vm) : Vm × ExecutionResult := runVm maxSteps [] vm

/-- The host's four moves on an instance, `none` where there is none (10_state.md R33, R36). The answer is the instance
after the move and, for run, the result. -/
def hostMove (m : HostMove) (vm : Option Vm) : Except Refusal (Option Vm × Option ExecutionResult) :=
  match m, vm with
  | .load P text input, none =>
    if P.wf then .ok (some (load P text input), none) else .error .illFormedParams
  | .load _ _ _, some _ => .error .alreadyLoaded
  | .run n cuts, some v =>
    if n ≤ Config.fuelMax then .ok (some (runVm n cuts v).1, some (runVm n cuts v).2)
    else .error .budgetAboveFuelMax
  | .lowerFuel n, some (.loaded s) =>
    match lowerFuel n s with
    | some t => .ok (some (.loaded t), none)
    | none => .error .notLower
  | .lowerFuel _, some (.failed _) => .error .notLower
  | .discard, some _ => .ok (none, none)
  | .run _ _, none => .error .noInstance
  | .lowerFuel _, none => .error .noInstance
  | .discard, none => .error .noInstance

end Sys2Proof.Machine
end

