-- ==== Sys2Proof/Safety.lean ====
section
/-! DEFINITION. What a good state and a legal history are, in the terms that statements use. -/

namespace Sys2Proof.Machine

/-- A full step is enabled: Running, and at least one unit of FUEL (42_step_cycle.md R111, R112). -/
abbrev State.Enabled (s : State) : Prop := s.runState = .running ∧ 0 < s.fuel

/-- The invariant of a loaded machine: its tables are an OPMAP and a PERM94 (00_scope.md R8, R9), the memory is in
canonical form, the program that load placed fits in memory and is printable (70_reset_and_hazards.md R202), and a
loaded machine is never in LoadError (10_state.md R35). -/
abbrev State.Inv (s : State) : Prop :=
  s.params.wf ∧ s.mem.wf ∧ s.mem.image.length ≤ 59049 ∧
    (s.mem.image.all fun w => decide (33 ≤ w.val ∧ w.val ≤ 126)) = true ∧ s.runState.isLoadError = false

/-- STATE after a step that spends the last unit of FUEL or does not, in a run that nothing else has ended
(42_step_cycle.md R118). -/
def runStateAfter (fuel : Nat) : RunState := if fuel = 1 then .haltedFuelExhausted else .running

/-- The states that the host and the machine can bring about: a load under some
configuration, a run's budget, a step, a cancellation
(10_state.md R33). The budget is any number: a bound FUEL_MAX would only leave some of these states out. -/
inductive Reachable : State → Prop where
  | load {P : Params} {text input : List Byte} {s : State} : P.wf → load P text input = .loaded s → Reachable s
  | budget {s : State} (n : Nat) : Reachable s → Reachable (writeBudget n s)
  | step {s t : State} : Reachable s → step s = .next t → Reachable t
  | cancel {s t : State} (n : Nat) : Reachable s → lowerFuel n s = some t → Reachable t

end Sys2Proof.Machine
end

