-- ==== Sys2Proof/Certificates/Slice0/Obligations.lean ====
section
/-! DEFINITION. The statements for the provers, one definition each. A docstring names the rule of spec/ it formalises.
Where a clause rests on one of the spec's own decisions D<n> (92_eei_decisions.md) or on a choice of this model, the
docstring says so and names the log entry. -/

open Sys2Proof Sys2Proof.Machine

/-! ## The ternary ALU -/

/-- R81: `decompose` gives ten trits, least significant first, trit i being (x div 3^i) mod 3. -/
def Obligations.DecomposeGivesBaseThreeDigits : Prop :=
  ∀ (x : Tryte) (i : Fin 10), ((decompose x).get i).val = x.val / 3 ^ i.val % 3

/-- R82: `compose` is the sum of t[i] · 3^i, and a word. -/
def Obligations.ComposeIsWeightedSum : Prop :=
  ∀ t : Trits, (compose t).val = ∑ i : Fin 10, (t.get i).val * 3 ^ i.val

/-- R83: the two are mutual inverses. -/
def Obligations.ComposeDecomposeAreInverse : Prop :=
  (∀ x : Tryte, compose (decompose x) = x) ∧ ∀ t : Trits, decompose (compose t) = t

/-- R84: the nine entries of the table, first operand first. -/
def Obligations.CrazyTritTableAsPrinted : Prop :=
  crazyTrit 0 0 = 1 ∧ crazyTrit 0 1 = 0 ∧ crazyTrit 0 2 = 0 ∧ crazyTrit 1 0 = 1 ∧ crazyTrit 1 1 = 0 ∧
    crazyTrit 1 2 = 2 ∧ crazyTrit 2 0 = 2 ∧ crazyTrit 2 1 = 2 ∧ crazyTrit 2 2 = 1

/-- R85: not commutative, not associative, no left and no right identity, and neither operand can be recovered from the
result and the other one. -/
def Obligations.CrazyTritIsIrregular : Prop :=
  crazyTrit 0 1 ≠ crazyTrit 1 0 ∧
    crazyTrit (crazyTrit 0 0) 0 ≠ crazyTrit 0 (crazyTrit 0 0) ∧
    (∀ e : Trit, ∃ b : Trit, crazyTrit e b ≠ b) ∧ (∀ e : Trit, ∃ a : Trit, crazyTrit a e ≠ a) ∧
    crazyTrit 0 1 = crazyTrit 0 2 ∧ crazyTrit 0 0 = crazyTrit 1 0

/-- R86: `crazy` is `crazy_trit` on each pair of trits of the same position, recomposed. -/
def Obligations.CrazyActsTritwise : Prop :=
  ∀ (a b : Tryte) (i : Fin 10),
    (decompose (crazy a b)).get i = crazyTrit ((decompose a).get i) ((decompose b).get i)

/-- R87: the trit of position 9 moves to position 0 and every other one up by one place; on the number,
3 · (x mod 19683) + (x div 19683). -/
def Obligations.RotateRightMovesTritsUp : Prop :=
  ∀ x : Tryte,
    (decompose (rotateRight x)).get 0 = (decompose x).get 9 ∧
      (∀ i : Fin 9, (decompose (rotateRight x)).get i.succ = (decompose x).get i.castSucc) ∧
      (rotateRight x).val = 3 * (x.val % 19683) + x.val / 19683

/-- R89: ten rotations are the identity; the rotation is a bijection whose inverse is
x div 3 + 19683 · (x mod 3), which is nine rotations; it keeps how often each trit value occurs. -/
def Obligations.RotateRightLaws : Prop :=
  (∀ x : Tryte, rotateRight^[10] x = x) ∧ Function.Bijective rotateRight ∧
    (∀ x : Tryte, (rotateRight^[9] x).val = x.val / 3 + 19683 * (x.val % 3)) ∧
    ∀ (x : Tryte) (t : Trit), (decompose (rotateRight x)).toList.count t = (decompose x).toList.count t

/-- R90: addition is modulo 59049, and 59048 + 1 is 0. -/
def Obligations.AddWrapIsModular : Prop :=
  (∀ a b : Tryte, (addWrap a b).val = (a.val + b.val) % 59049) ∧ addWrap 59048 1 = 0

/-- R91, R92: subtraction is the Euclidean remainder of the difference, and undoes addition as addition undoes it.
That the remainder is Euclidean is the spec's decision D1 (log 11). -/
def Obligations.SubWrapUndoesAddWrap : Prop :=
  ∀ a b : Tryte,
    ((subWrap a b).val : Int) = ((a.val : Int) - b.val) % 59049 ∧ subWrap (addWrap a b) b = a ∧
      addWrap (subWrap a b) b = a

/-! ## Memory -/

/-- R42, R43: a read gives the word of the slot; a write changes that slot alone; and the word written is read back
until the next write to its address, whatever is written elsewhere in between. -/
def Obligations.WrittenWordLastsUntilOverwritten : Prop :=
  ∀ (m : Memory) (x : Address) (v : Tryte) (later : List (Address × Tryte)),
    (∀ p ∈ later, p.1 ≠ x) →
      (later.foldl (fun acc p => acc.write p.1 p.2) (m.write x v)).read x = v ∧
        ∀ y, y ≠ x → (m.write x v).read y = m.read y

/-- Memories in canonical form, over one loaded program, that read the same at every address are the same data. The
form is this model's choice (log 2). -/
def Obligations.EqualReadsMeanEqualMemory : Prop :=
  ∀ m m' : Memory, m.wf → m'.wf → m.image = m'.image → (∀ x, m.read x = m'.read x) → m = m'

/-- R41: an integer is an Address if and only if it lies in [0, 59048], and the Address is the integer. That a negative
one fails is the spec's decision D21 (log 22). -/
def Obligations.MkAddressAcceptsExactlyTheRange : Prop :=
  ∀ n : Int,
    (∀ x : Address, mkAddress n = .ok x ↔ ((x.val : Int) = n)) ∧
      (mkAddress n = .error .outOfRange ↔ n < 0 ∨ 59048 < n)

/-- R55: a full step makes at least 3 and at most 5 accesses, the first the fetch and the last two those of the rewrite,
all of them at C or D; and a slot that is in none of the writes keeps its word. -/
def Obligations.StepAccessesBoundItsStores : Prop :=
  ∀ s : State, s.Enabled →
    3 ≤ (stepAccesses s).length ∧ (stepAccesses s).length ≤ 5 ∧
      (stepAccesses s).head? = some (.read s.c) ∧
      [Access.read s.c, Access.write s.c] <:+ stepAccesses s ∧
      (∀ acc ∈ stepAccesses s, acc.addr = s.c ∨ acc.addr = s.d) ∧
      ∃ t, step s = .next t ∧ ∀ x, Access.write x ∉ stepAccesses s → t.mem.read x = s.mem.read x

/-! ## Decoding and encoding -/

/-- R61: the key is the Euclidean remainder of w - 33 + addr modulo 94. That it is Euclidean is the spec's decision D1,
and that the operand is the whole word its decision D2 (log 11, 12). -/
def Obligations.KeyIsEuclideanRemainder : Prop :=
  ∀ (w : Tryte) (addr : Address), ((key w addr).val : Int) = ((w.val : Int) - 33 + addr.val) % 94

/-- R63: for every OPMAP of eight distinct keys, a word decodes to an opcode exactly when its key is that opcode's, and
to `Invalid` exactly when its key is none of the eight. -/
def Obligations.DecodeIsByKey : Prop :=
  ∀ m : OpMap, m.wf → ∀ (w : Tryte) (addr : Address),
    (∀ (i : Instr) (k : Key), m.keyOf i = some k → (decodeWith m w addr = i ↔ key w addr = k)) ∧
      (decodeWith m w addr = .invalid ↔ key w addr ∉ m.keys)

/-- R69: moving a word up one address moves its key up by one, modulo 94; the key depends only on (w + addr) mod 94; and
with the default OPMAP (PRESUMED, log 5) the word 81 is Halt at address 0 and Jump at address 17. -/
def Obligations.DecodingDependsOnPosition : Prop :=
  (∀ (w : Tryte) (addr next : Address), next.val = addr.val + 1 →
      (key w next).val = ((key w addr).val + 1) % 94) ∧
    (∀ (w w' : Tryte) (addr addr' : Address),
      key w addr = key w' addr' ↔ (w.val + addr.val) % 94 = (w'.val + addr'.val) % 94) ∧
    decode 81 0 = .halt ∧ decode 81 17 = .jump

/-- R71, its first two sentences: for every OPMAP of eight distinct keys, `place` gives a printable word that decodes
to the opcode, and it is the only printable word that does. R61, R63, R69: the words that do are those of its residue
class modulo 94, place + 94 j. That class is DEDUCED from these rules, with which the vectors V5.17 to V5.20 agree;
R71's last formula prints place - 33 + 94 j, and the model departs from it (log 27). -/
def Obligations.PlaceIsTheOnlyPrintableWord : Prop :=
  ∀ m : OpMap, m.wf → ∀ (i : Instr) (addr : Address) (p : Tryte), placeWith m i addr = some p →
    decodeWith m p addr = i ∧ (33 ≤ p.val ∧ p.val ≤ 126) ∧
      (∀ w : Tryte, 33 ≤ w.val → w.val ≤ 126 → decodeWith m w addr = i → w = p) ∧
      ∀ w : Tryte, decodeWith m w addr = i ↔ w.val % 94 = p.val % 94

/-- Decode and encode agree, for every OPMAP of eight distinct keys, for every instruction at every address, `Invalid`
too; a word that decodes to one of the eight opcodes has that opcode's encoding modulo 94 (DEDUCED, log 27), so a
printable one is the encoding; and no two opcodes share an encoding. The word that encodes `Invalid` is this model's
choice (log 20). -/
def Obligations.DecodeOfEncodeIsIdentity : Prop :=
  ∀ m : OpMap, m.wf → ∀ addr : Address,
    (∀ i : Instr, i.wf → decodeWith m (encodeWith m i addr) addr = i) ∧
      (∀ w : Tryte, 33 ≤ w.val → w.val ≤ 126 → decodeWith m w addr ≠ .invalid →
        encodeWith m (decodeWith m w addr) addr = w) ∧
      (∀ w : Tryte, decodeWith m w addr ≠ .invalid →
        w.val % 94 = (encodeWith m (decodeWith m w addr) addr).val % 94) ∧
      Function.Injective fun i => encodeWith m i addr

/-- A word of each kind, written out by its trits, least significant first, decodes at address 0 to the instruction it
stands for under the default OPMAP (R64, PRESUMED, log 5). -/
def Obligations.WrittenOutWordsDecode : Prop :=
  decode (compose #v[1, 1, 1, 1, 0, 0, 0, 0, 0, 0]) 0 = .setData ∧
    decode (compose #v[2, 2, 1, 0, 1, 0, 0, 0, 0, 0]) 0 = .jump ∧
    decode (compose #v[0, 1, 1, 1, 0, 0, 0, 0, 0, 0]) 0 = .rotate ∧
    decode (compose #v[2, 2, 0, 2, 0, 0, 0, 0, 0, 0]) 0 = .crazy ∧
    decode (compose #v[0, 0, 2, 0, 1, 0, 0, 0, 0, 0]) 0 = .output ∧
    decode (compose #v[0, 0, 1, 1, 1, 0, 0, 0, 0, 0]) 0 = .input ∧
    decode (compose #v[0, 0, 0, 0, 1, 0, 0, 0, 0, 0]) 0 = .halt ∧
    decode (compose #v[2, 1, 1, 2, 0, 0, 0, 0, 0, 0]) 0 = .nop ∧
    decode (compose #v[0, 2, 0, 1, 0, 0, 0, 0, 0, 0]) 0 = .invalid

/-! ## Self-modification -/

/-- R101: for every PERM94, the rewrite is the table at the Euclidean remainder of w - 33 modulo 94, plus 33. The
Euclidean remainder is the spec's decision D1, the whole word its decision D2 (log 11, 12). -/
def Obligations.RewriteLooksUpTheTable : Prop :=
  ∀ (p : Perm94) (w : Tryte) (k : Key), (k.val : Int) = ((w.val : Int) - 33) % 94 →
    (rewriteWith p w).val = (p.get k).val + 33

/-- R104: for every PERM94 that is a permutation, every rewrite lies in [33, 126]; on [33, 126] it is a bijection; it
has period 94, so it is not injective on words; and after sub-step 3 the executed slot holds a printable word,
whatever it held before. -/
def Obligations.RewriteRangeLaws : Prop :=
  (∀ p : Perm94, p.wf →
      (∀ w : Tryte, 33 ≤ (rewriteWith p w).val ∧ (rewriteWith p w).val ≤ 126) ∧
        Set.BijOn (rewriteWith p) {w | 33 ≤ w.val ∧ w.val ≤ 126} {w | 33 ≤ w.val ∧ w.val ≤ 126} ∧
        (∀ w w' : Tryte, w'.val = w.val + 94 → rewriteWith p w' = rewriteWith p w) ∧
        ¬ Function.Injective (rewriteWith p)) ∧
    ∀ (c0 : Address) (s : State),
      33 ≤ ((selfModify c0 s).mem.read c0).val ∧ ((selfModify c0 s).mem.read c0).val ≤ 126

/-- R106, of the default PERM94 (PRESUMED, log 6): no word at all is left unchanged by a rewrite, and every printable
word comes back for the first time after 68, 9, 6, 5, 4 or 2 rewrites. -/
def Obligations.DefaultRewriteHasNoFixedPoint : Prop :=
  (∀ w : Tryte, rewrite w ≠ w) ∧
    ∀ w : Tryte, 33 ≤ w.val → w.val ≤ 126 →
      ∃ k ∈ [68, 9, 6, 5, 4, 2], rewrite^[k] w = w ∧ ∀ j, 0 < j → j < k → rewrite^[j] w ≠ w

/-! ## One instruction each: its result, its frame, and that it completes, whatever the machine's OPMAP and PERM94 -/

/-- R130: SetData. D ends one past the word that D named; the executed slot is rewritten, C and FUEL move on; nothing
else changes. -/
def Obligations.SetDataLoadsPointer : Prop :=
  ∀ s : State, s.Enabled → ∃ t, exec .setData s = .next t ∧
    (s.params.opmap.wf → key (s.mem.read s.c) s.c = s.params.opmap.setData → step s = .next t) ∧
    t.d = addWrap (s.mem.read s.d) 1 ∧
    t.c = addWrap s.c 1 ∧ t.a = s.a ∧ t.input = s.input ∧ t.output = s.output ∧
    t.params = s.params ∧ t.fuel = s.fuel - 1 ∧ t.runState = runStateAfter s.fuel ∧
    ∀ x, t.mem.read x = if x = s.c then rewriteWith s.params.perm (s.mem.read s.c) else s.mem.read x

/-- R131: Jump. C ends at exactly the word that D named; the slot that is rewritten is the Jump's own; nothing else
changes but D and FUEL. That D moves on by one after a Jump is the spec's decision D8 (log 13). -/
def Obligations.JumpRedirectsCodePointer : Prop :=
  ∀ s : State, s.Enabled → ∃ t, exec .jump s = .next t ∧
    (s.params.opmap.wf → key (s.mem.read s.c) s.c = s.params.opmap.jump → step s = .next t) ∧
    t.c = s.mem.read s.d ∧
    t.d = addWrap s.d 1 ∧ t.a = s.a ∧ t.input = s.input ∧ t.output = s.output ∧
    t.params = s.params ∧ t.fuel = s.fuel - 1 ∧ t.runState = runStateAfter s.fuel ∧
    ∀ x, t.mem.read x = if x = s.c then rewriteWith s.params.perm (s.mem.read s.c) else s.mem.read x

/-- R140: Rotate. A and the slot that D names get the rotated word, and nothing else changes but the executed slot, C, D
and FUEL. Where D names the executed slot, A keeps the result and the slot ends as the rewrite of the result: the spec's
decision D11 (log 16). -/
def Obligations.RotateStoresRotatedWord : Prop :=
  ∀ s : State, s.Enabled → ∃ t, exec .rotate s = .next t ∧
    (s.params.opmap.wf → key (s.mem.read s.c) s.c = s.params.opmap.rotate → step s = .next t) ∧
    t.a = rotateRight (s.mem.read s.d) ∧
    t.c = addWrap s.c 1 ∧ t.d = addWrap s.d 1 ∧ t.input = s.input ∧ t.output = s.output ∧
    t.params = s.params ∧ t.fuel = s.fuel - 1 ∧ t.runState = runStateAfter s.fuel ∧
    ∀ x, t.mem.read x =
      if x = s.c then rewriteWith s.params.perm (if s.c = s.d then rotateRight (s.mem.read s.d) else s.mem.read s.c)
      else if x = s.d then rotateRight (s.mem.read s.d)
      else s.mem.read x

/-- R141: Crazy. A and the slot that D names get crazy(A, MEM[D]), the accumulator first, and nothing else changes but
the executed slot, C, D and FUEL. Where D names the executed slot, the slot ends as the rewrite of the result: the
spec's decision D11 (log 16). -/
def Obligations.CrazyStoresCombinedWord : Prop :=
  ∀ s : State, s.Enabled → ∃ t, exec .crazy s = .next t ∧
    (s.params.opmap.wf → key (s.mem.read s.c) s.c = s.params.opmap.crazy → step s = .next t) ∧
    t.a = crazy s.a (s.mem.read s.d) ∧
    t.c = addWrap s.c 1 ∧ t.d = addWrap s.d 1 ∧ t.input = s.input ∧ t.output = s.output ∧
    t.params = s.params ∧ t.fuel = s.fuel - 1 ∧ t.runState = runStateAfter s.fuel ∧
    ∀ x, t.mem.read x =
      if x = s.c then rewriteWith s.params.perm (if s.c = s.d then crazy s.a (s.mem.read s.d) else s.mem.read s.c)
      else if x = s.d then crazy s.a (s.mem.read s.d)
      else s.mem.read x

/-- R150: Output. The byte A mod 256 is appended to OUT; A keeps its value; nothing else changes but the executed
slot, C, D and FUEL. -/
def Obligations.OutputAppendsByte : Prop :=
  ∀ s : State, s.Enabled → ∃ (t : State) (b : Byte), exec .output s = .next t ∧
    (s.params.opmap.wf → key (s.mem.read s.c) s.c = s.params.opmap.output → step s = .next t) ∧
    b.val = s.a.val % 256 ∧ t.output = s.output ++ [b] ∧
    t.c = addWrap s.c 1 ∧ t.d = addWrap s.d 1 ∧ t.a = s.a ∧ t.input = s.input ∧
    t.params = s.params ∧ t.fuel = s.fuel - 1 ∧ t.runState = runStateAfter s.fuel ∧
    ∀ x, t.mem.read x = if x = s.c then rewriteWith s.params.perm (s.mem.read s.c) else s.mem.read x

/-- R151: Input where input remains. A gets the first byte of IN, with the same integer value, and IN loses it; nothing
else changes but the executed slot, C, D and FUEL. That a byte is zero-extended is the spec's decision D13 (log 18). -/
def Obligations.InputConsumesFirstByte : Prop :=
  ∀ (s : State) (b : Byte) (rest : List Byte), s.Enabled → s.input = b :: rest → ∃ t, exec .input s = .next t ∧
    (s.params.opmap.wf → key (s.mem.read s.c) s.c = s.params.opmap.input → step s = .next t) ∧
    t.a.val = b.val ∧ t.input = rest ∧
    t.c = addWrap s.c 1 ∧ t.d = addWrap s.d 1 ∧ t.output = s.output ∧
    t.params = s.params ∧ t.fuel = s.fuel - 1 ∧ t.runState = runStateAfter s.fuel ∧
    ∀ x, t.mem.read x = if x = s.c then rewriteWith s.params.perm (s.mem.read s.c) else s.mem.read x

/-- R151: Input where none remains. STATE becomes HaltedInputExhausted, also when this spends the last unit of FUEL; A
and OUT are kept. That the step still completes (rewrite, both advances, FUEL) and that this halt wins over the fuel
are the spec's decisions D9 and D10 (log 14, 15). -/
def Obligations.InputExhaustedEndsRun : Prop :=
  ∀ s : State, s.Enabled → s.input = [] → ∃ t, exec .input s = .next t ∧
    (s.params.opmap.wf → key (s.mem.read s.c) s.c = s.params.opmap.input → step s = .next t) ∧
    t.runState = .haltedInputExhausted ∧ t.a = s.a ∧ t.output = s.output ∧ t.input = [] ∧
    t.c = addWrap s.c 1 ∧ t.d = addWrap s.d 1 ∧ t.params = s.params ∧ t.fuel = s.fuel - 1 ∧
    ∀ x, t.mem.read x = if x = s.c then rewriteWith s.params.perm (s.mem.read s.c) else s.mem.read x

/-- R152: Halt. STATE becomes HaltedExplicit, also when this spends the last unit of FUEL; A, IN and OUT are kept. That
the step still completes and that this halt wins over the fuel are the spec's decisions D9 and D10 (log 14, 15). -/
def Obligations.HaltEndsRunExplicitly : Prop :=
  ∀ s : State, s.Enabled → ∃ t, exec .halt s = .next t ∧
    (s.params.opmap.wf → key (s.mem.read s.c) s.c = s.params.opmap.halt → step s = .next t) ∧
    t.runState = .haltedExplicit ∧ t.a = s.a ∧ t.input = s.input ∧ t.output = s.output ∧
    t.c = addWrap s.c 1 ∧ t.d = addWrap s.d 1 ∧ t.params = s.params ∧ t.fuel = s.fuel - 1 ∧
    ∀ x, t.mem.read x = if x = s.c then rewriteWith s.params.perm (s.mem.read s.c) else s.mem.read x

/-- R153: Nop. No operand effect; the slot is rewritten, C and D advance, FUEL goes down, and the run ends if that was
the last unit. -/
def Obligations.NopOnlyAdvances : Prop :=
  ∀ s : State, s.Enabled → ∃ t, exec .nop s = .next t ∧
    (s.params.opmap.wf → key (s.mem.read s.c) s.c = s.params.opmap.nop → step s = .next t) ∧
    t.c = addWrap s.c 1 ∧ t.d = addWrap s.d 1 ∧ t.a = s.a ∧ t.input = s.input ∧ t.output = s.output ∧
    t.params = s.params ∧ t.fuel = s.fuel - 1 ∧ t.runState = runStateAfter s.fuel ∧
    ∀ x, t.mem.read x = if x = s.c then rewriteWith s.params.perm (s.mem.read s.c) else s.mem.read x

/-- R154: Invalid, for each key outside OPMAP. The same effect as Nop; nothing records that an undecodable word was
executed; the word is rewritten into [33, 126], whatever it was. -/
def Obligations.InvalidActsAsNop : Prop :=
  ∀ s : State, s.Enabled → ∃ t, exec .invalid s = .next t ∧ exec .nop s = .next t ∧
    (key (s.mem.read s.c) s.c ∉ s.params.opmap.keys → step s = .next t) ∧
    (33 ≤ (t.mem.read s.c).val ∧ (t.mem.read s.c).val ≤ 126) ∧
    t.c = addWrap s.c 1 ∧ t.d = addWrap s.d 1 ∧ t.a = s.a ∧ t.input = s.input ∧ t.output = s.output ∧
    t.params = s.params ∧ t.fuel = s.fuel - 1 ∧ t.runState = runStateAfter s.fuel ∧
    ∀ x, t.mem.read x = if x = s.c then rewriteWith s.params.perm (s.mem.read s.c) else s.mem.read x

/-! ## The step -/

/-- R113: a step of a Running machine with FUEL fetches the word at C, decodes it with the address C by the
machine's OPMAP, and is exec of that instruction at that state. -/
def Obligations.StepExecutesDecodedWord : Prop :=
  ∀ s : State, s.Enabled → step s = exec (decodeWith s.params.opmap (s.mem.read s.c) s.c) s

/-- R112: a step of a Running machine with FUEL 0 sets HaltedFuelExhausted and does nothing else. That the check heads
every step is the spec's decision D18 (log 15). -/
def Obligations.ZeroFuelExecutesNothing : Prop :=
  ∀ s : State, s.runState = .running → s.fuel = 0 →
    step s = .next { s with runState := .haltedFuelExhausted }

/-- R111: in a terminal state no step is enabled. That `step` says so by a fault is this model's form (log 9). -/
def Obligations.TerminalStateHasNoStep : Prop :=
  ∀ s : State, s.runState ≠ .running ↔ step s = .fault (.runOver s.runState)

/-- R15, R176: entering a terminal state writes STATE and nothing else, and only from Running. -/
def Obligations.HaltWritesOnlyRunState : Prop :=
  ∀ (s : State) (r : RunState),
    (s.runState = .running → halt r s = { s with runState := r }) ∧ (s.runState ≠ .running → halt r s = s)

/-- R118, R119: every full step lowers FUEL by exactly one. If neither Halt nor an exhausted Input ended the run in the
step, it ends in HaltedFuelExhausted exactly when FUEL is now 0 and else goes on Running; if one of them did, STATE is
theirs. The last clause is the spec's decision D10 (log 15). -/
def Obligations.FullStepSpendsOneFuel : Prop :=
  ∀ s : State, s.Enabled → ∃ t, step s = .next t ∧ t.fuel + 1 = s.fuel ∧
    (fetchInstr s = .halt → t.runState = .haltedExplicit) ∧
    (fetchInstr s = .input → s.input = [] → t.runState = .haltedInputExhausted) ∧
    (fetchInstr s ≠ .halt → (fetchInstr s = .input → s.input ≠ []) →
      (t.fuel = 0 → t.runState = .haltedFuelExhausted) ∧ (t.fuel ≠ 0 → t.runState = .running))

/-- R126: what one step changes at most. A slot other than the executed one changes only for Rotate and Crazy, and
then it is the one D named; A only for these and a successful Input; OUT only for Output; IN only for a successful
Input; STATE only for Halt, for Input on an empty IN, and when FUEL reaches 0. The last clause is of the model alone: no
step changes the loaded program, which the model holds beside the changed slots (log 2, DESIGN CHOICE). -/
def Obligations.StepChangesAtMost : Prop :=
  ∀ s : State, s.Enabled → ∃ t, step s = .next t ∧
    (∀ x, x ≠ s.c → t.mem.read x ≠ s.mem.read x →
      x = s.d ∧ (fetchInstr s = .rotate ∨ fetchInstr s = .crazy)) ∧
    (t.a ≠ s.a → fetchInstr s = .rotate ∨ fetchInstr s = .crazy ∨ (fetchInstr s = .input ∧ s.input ≠ [])) ∧
    (t.output ≠ s.output → fetchInstr s = .output) ∧
    (t.input ≠ s.input → fetchInstr s = .input ∧ s.input ≠ []) ∧
    (t.runState ≠ s.runState → fetchInstr s = .halt ∨ (fetchInstr s = .input ∧ s.input = []) ∨ t.fuel = 0) ∧
    t.mem.image = s.mem.image

/-- R132, R116: Jump is the only instruction that redirects C; every other one falls through to the next address, from
59048 to 0; and D moves to the address after the one the handler left in it. That D moves after a Jump is the spec's
decision D8 (log 13). -/
def Obligations.OnlyJumpRedirects : Prop :=
  ∀ s : State, s.Enabled → ∃ t, step s = .next t ∧
    (fetchInstr s ≠ .jump → t.c.val = (s.c.val + 1) % 59049) ∧
    (fetchInstr s = .jump → t.c = s.mem.read s.d) ∧
    (fetchInstr s ≠ .setData → t.d.val = (s.d.val + 1) % 59049) ∧
    (fetchInstr s = .setData → t.d.val = ((s.mem.read s.d).val + 1) % 59049)

/-- R62, R215: the only way a slot comes to hold a word outside [33, 126] is the store of Rotate or Crazy to a slot that
is not the executed one. It rests on the whole word being rewritten, the spec's decision D2 (log 12). -/
def Obligations.OnlyStoresMakeUnprintableWords : Prop :=
  ∀ (s t : State) (x : Address), step s = .next t →
    33 ≤ (s.mem.read x).val ∧ (s.mem.read x).val ≤ 126 →
    ¬ (33 ≤ (t.mem.read x).val ∧ (t.mem.read x).val ≤ 126) →
      x = s.d ∧ x ≠ s.c ∧ (fetchInstr s = .rotate ∨ fetchInstr s = .crazy) ∧ t.a = t.mem.read x

/-- R110: the step of the machine is the spec's pseudocode, written down line by line, under the machine's own OPMAP
and PERM94. The pseudocode carries the spec's decisions D8 to D11 and D18 (log 13 to 16); that a terminal state
answers a fault is this model's form (log 9). -/
def Obligations.StepIsThePseudocode : Prop :=
  ∀ s : State, step s = referenceStep s.params s

/-- R8, R9: what holds of a step of a machine whatever its two tables are, which the source does not print: it answers
a next state under the same tables, the executed slot ends printable, FUEL goes down by one, every other slot but D's
keeps its word, and C falls through unless the word decodes to Jump. That the tables stand in the state is this
model's form (log 28). -/
def Obligations.StepLawsForEveryTable : Prop :=
  ∀ (P : Params) (s : State), s.Enabled → ∃ t, step { s with params := P } = .next t ∧ t.params = P ∧
    (33 ≤ (t.mem.read s.c).val ∧ (t.mem.read s.c).val ≤ 126) ∧ t.fuel + 1 = s.fuel ∧
    (∀ x, x ≠ s.c → x ≠ s.d → t.mem.read x = s.mem.read x) ∧
    (decodeWith P.opmap (s.mem.read s.c) s.c ≠ .jump → t.c = addWrap s.c 1)

/-! ## Invariants -/

/-- The invariant of a loaded machine holds at reset: the default tables are an OPMAP and a PERM94 (R8, R9), nothing is
listed in memory, and no program is placed (log 2, 7). -/
def Obligations.InvariantHoldsAtReset : Prop := State.reset.Inv

/-- Every step keeps the invariant: the tables stay an OPMAP and a PERM94 (R8, R9), the memory stays in canonical form
(log 2), the loaded program stays a valid one (R202), and the machine never enters LoadError (R35). -/
def Obligations.EveryStepKeepsInvariant : Prop :=
  ∀ s t : State, s.Inv → step s = .next t → t.Inv

/-- Every state that a load, budgets, steps and cancellations bring about (R33) satisfies the invariant, and its OUT
only ever grows: a further step keeps what was emitted, at the front (R150). The canonical form of memory is this
model's choice (log 2), and so is that the host cancels only while the machine is Running (log 19). -/
def Obligations.ReachableStatesAreGood : Prop :=
  ∀ s : State, Reachable s → s.Inv ∧ ∀ t, step s = .next t → s.output <+: t.output

/-! ## What a program can and cannot learn -/

/-- R32: a program cannot read OUT. Whatever OUT held before a step, the rest of the next state is the same, and the
same bytes are appended. -/
def Obligations.OutputIsWriteOnly : Prop :=
  ∀ s t : State, step s = .next t → ∃ emitted : List Byte, t.output = s.output ++ emitted ∧
    ∀ o : List Byte, step { s with output := o } = .next { t with output := o ++ emitted }

/-- R32: a program cannot look ahead in IN. Bytes further on in the input, beyond the next one, make no difference to a
step and are still there after it. IN as a list fixed before the run is the spec's decision D19 (log 18). -/
def Obligations.InputHasNoLookahead : Prop :=
  ∀ (s t : State) (further : List Byte), s.input ≠ [] → step s = .next t →
    step { s with input := s.input ++ further } = .next { t with input := t.input ++ further }

/-- R183: no program can read FUEL. Two states that differ in FUEL alone, neither at its last unit, step to states that
differ in FUEL alone. -/
def Obligations.FuelIsInvisible : Prop :=
  ∀ (s t : State) (n : Nat), 2 ≤ s.fuel → 2 ≤ n → step s = .next t →
    step { s with fuel := n } = .next { t with fuel := n - 1 }

/-! ## Load, run and cancellation -/

/-- R202: load checks three things and nothing else, whatever the machine's configuration. -/
def Obligations.LoadChecksThreeThings : Prop :=
  ∀ (P : Params) (text input : List Byte),
    (∃ s, load P text input = .loaded s) ↔
      text.length ≠ 0 ∧ text.length ≤ 59049 ∧ ∀ b ∈ text, 33 ≤ b.val ∧ b.val ≤ 126

/-- R172: which error a failed load reports. The order of the checks, the lowest position and its base 0 are the spec's
decision D12 (log 17). -/
def Obligations.LoadErrorsInOrder : Prop :=
  ∀ (P : Params) (text input : List Byte),
    (load P text input = .failed .emptyProgram ↔ text = []) ∧
      (load P text input = .failed .tooLarge ↔ 59049 < text.length) ∧
      ∀ pos : Nat, load P text input = .failed (.invalidByte pos) ↔
        text.length ≤ 59049 ∧ (∃ b, text[pos]? = some b ∧ ¬ (33 ≤ b.val ∧ b.val ≤ 126)) ∧
          ∀ i b, i < pos → text[i]? = some b → 33 ≤ b.val ∧ b.val ≤ 126

/-- R203, R204, R205, R34: what a successful load leaves: byte i at address i, FILL of the program at and above its
length, whatever FILL is, C = D = A = FUEL = 0, OUT empty, IN as supplied, STATE Running, and, under an OPMAP and a
PERM94, the invariant. The zeros and the placement are the spec's decisions D6, D7 and D17 (log 7, 17); the canonical
form of memory and the configuration in the state are this model's (log 2, 28). -/
def Obligations.LoadLeavesResetState : Prop :=
  ∀ (P : Params) (text input : List Byte) (s : State), load P text input = .loaded s →
    (∀ (i : Nat) (b : Byte) (x : Address), text[i]? = some b → x.val = i → (s.mem.read x).val = b.val) ∧
      (∀ x : Address, text.length ≤ x.val → s.mem.read x = Config.fill (text.map zext) x) ∧
      s.c = 0 ∧ s.d = 0 ∧ s.a = 0 ∧ s.fuel = 0 ∧ s.output = [] ∧ s.input = input ∧ s.runState = .running ∧
      s.params = P ∧ (P.wf → s.Inv)

/-- R124: every run ends. A full step lowers FUEL by exactly one, a step with FUEL 0 leaves Running, and so from any
state at most FUEL full steps and one zero-fuel check can be taken: the next step asked for finds the run over. The
last clause lets the host lower FUEL before any step of the run, of which R124 says nothing: it rests on R122, the
spec's decision D22, and on this model's reading of a cut (log 19, DESIGN CHOICE). -/
def Obligations.EveryRunEnds : Prop :=
  (∀ s t : State, step s = .next t → (0 < s.fuel ∧ t.fuel + 1 = s.fuel) ∨ (s.fuel = 0 ∧ t.runState ≠ .running)) ∧
    (∀ s : State, ∃ r, r ≠ .running ∧ Sys2Proof.core.run (s.fuel + 2) s = .fault (.runOver r)) ∧
    ∀ (n : Nat) (cuts : List (Option Nat)) (s : State), (runLoaded n cuts s).runState ≠ .running

/-- A larger budget only lets a run go on: what a run emitted within a budget is the beginning of what it emits within a
larger one, and a run that ended by itself gives the same result. (From R118, R119, R120.) -/
def Obligations.LargerBudgetExtendsRun : Prop :=
  ∀ (s : State) (n m : Nat), s.runState = .running → n ≤ m →
    (runLoaded n [] s).output <+: (runLoaded m [] s).output ∧
      ((runLoaded n [] s).runState ≠ .haltedFuelExhausted →
        resultOf (runLoaded m [] s) = resultOf (runLoaded n [] s))

/-- R120, R178: on a failed instance run returns the load error; on a halted one it executes nothing and returns the
same result again, the instance unchanged. The latter is the spec's decision D16 (log 25). -/
def Obligations.RunOnEndedInstanceChangesNothing : Prop :=
  (∀ (n : Nat) (kind : LoadErrorKind), run n (.failed kind) = (.failed kind, .loadError kind)) ∧
    (∀ (n : Nat) (s : State), s.runState ≠ .running → run n (.loaded s) = (.loaded s, .ran s.output s.runState)) ∧
    ∀ (n m : Nat) (vm : Vm), run m (run n vm).1 = run n vm

/-- R122: the host may lower FUEL of a running machine and no more than that; if it writes 0, the next step ends the run
in HaltedFuelExhausted with everything else as it was. That it acts only between steps and only downward is the spec's
decision D22, and that it acts only while Running this model's reading (log 19). -/
def Obligations.CancellationEndsRun : Prop :=
  (∀ (n : Nat) (s t : State), lowerFuel n s = some t ↔ s.runState = .running ∧ n < s.fuel ∧ t = { s with fuel := n }) ∧
    ∀ s t : State, lowerFuel 0 s = some t →
      step t = .next { s with fuel := 0, runState := .haltedFuelExhausted }

/-- R31: no step, no run and no cut of the host's changes the configuration that a load sets, so a whole run is one
under the tables it was started with. That they stand in the state is this model's form (log 28). -/
def Obligations.ConfigurationIsFixed : Prop :=
  (∀ (P : Params) (text input : List Byte) (s : State), load P text input = .loaded s → s.params = P) ∧
    (∀ s t : State, step s = .next t → t.params = s.params) ∧
    ∀ (n : Nat) (cuts : List (Option Nat)) (s : State), (runLoaded n cuts s).params = s.params
end

