-- ==== Sys2Proof/Laws/Decode.lean ====
section
/-! SUPPORT. Small lemmas of the decoder, of the encoder and of the ALU's addition. -/

namespace Sys2Proof

theorem key_val (w : Tryte) (addr : Address) : (key w addr).val = (w.val + addr.val + 61) % 94 := rfl

theorem placeKey_val (k : Key) (addr : Address) :
    (placeKey k addr).val = 33 + (k.val + (94 - addr.val % 94)) % 94 := rfl

/-- The word that `placeKey` gives has the key it was asked for. -/
theorem key_placeKey (k : Key) (addr : Address) : key (placeKey k addr) addr = k := by
  apply Fin.ext
  rw [key_val, placeKey_val]
  omega

theorem Machine.addWrap_val (a b : Tryte) : (Machine.addWrap a b).val = (a.val + b.val) % 59049 := rfl

theorem Machine.subWrap_val (a b : Tryte) : (Machine.subWrap a b).val = (a.val + 59049 - b.val) % 59049 := rfl

theorem Machine.trit_val (i : Nat) (x : Tryte) : (Machine.trit i x).val = x.val / 3 ^ i % 3 := rfl

theorem Machine.zext_val (b : Byte) : (Machine.zext b).val = b.val := rfl

theorem Machine.outputByte_val (a : Tryte) : (Machine.outputByte a).val = a.val % 256 := rfl

theorem Machine.printable_iff (b : Byte) : Machine.printable b = true ↔ 33 ≤ b.val ∧ b.val ≤ 126 := by
  unfold Machine.printable; exact decide_eq_true_iff

/-- The key of the encoder's `Invalid` is no opcode's, whatever the map: eight keys do not fill [0, 93]. -/
theorem invalidKey_notMem (m : OpMap) : invalidKey m ∉ m.keys := by
  unfold invalidKey
  cases h : (List.finRange 94).find? fun k => decide (k ∉ m.keys) with
  | some k => simpa using List.find?_some h
  | none =>
    have hall : List.finRange 94 ⊆ m.keys := fun k hk => by simpa using List.find?_eq_none.1 h k hk
    have := ((List.nodup_finRange 94).subperm hall).length_le
    simp [OpMap.keys] at this

/-- The default tables are a configuration (30_encoding.md R64, 41_self_modification.md R102). -/
theorem Machine.params_default_wf : Machine.Params.default.wf := ⟨by decide, by decide +kernel⟩

end Sys2Proof
end

