-- ==== Sys2Proof/Laws/State.lean ====
section
/-! SUPPORT. One lemma per field of State and per shared operation: what the operation leaves in that field. With these
no later proof unfolds a record update. -/

namespace Sys2Proof.Machine

@[simp] theorem halt_mem (r : RunState) (s : State) : (halt r s).mem = s.mem := by unfold halt; split <;> rfl
@[simp] theorem halt_c (r : RunState) (s : State) : (halt r s).c = s.c := by unfold halt; split <;> rfl
@[simp] theorem halt_d (r : RunState) (s : State) : (halt r s).d = s.d := by unfold halt; split <;> rfl
@[simp] theorem halt_a (r : RunState) (s : State) : (halt r s).a = s.a := by unfold halt; split <;> rfl
@[simp] theorem halt_fuel (r : RunState) (s : State) : (halt r s).fuel = s.fuel := by unfold halt; split <;> rfl
@[simp] theorem halt_runState (r : RunState) (s : State) :
    (halt r s).runState = if s.runState = .running then r else s.runState := by unfold halt; split <;> simp_all
@[simp] theorem halt_input (r : RunState) (s : State) : (halt r s).input = s.input := by unfold halt; split <;> rfl
@[simp] theorem halt_output (r : RunState) (s : State) :
    (halt r s).output = s.output := by unfold halt; split <;> rfl
@[simp] theorem halt_params (r : RunState) (s : State) :
    (halt r s).params = s.params := by unfold halt; split <;> rfl

@[simp] theorem zeroFuelHalt_mem (s : State) : (zeroFuelHalt s).mem = s.mem := by simp [zeroFuelHalt]
@[simp] theorem zeroFuelHalt_c (s : State) : (zeroFuelHalt s).c = s.c := by simp [zeroFuelHalt]
@[simp] theorem zeroFuelHalt_d (s : State) : (zeroFuelHalt s).d = s.d := by simp [zeroFuelHalt]
@[simp] theorem zeroFuelHalt_a (s : State) : (zeroFuelHalt s).a = s.a := by simp [zeroFuelHalt]
@[simp] theorem zeroFuelHalt_fuel (s : State) : (zeroFuelHalt s).fuel = s.fuel := by simp [zeroFuelHalt]
@[simp] theorem zeroFuelHalt_runState (s : State) :
    (zeroFuelHalt s).runState = if s.runState = .running then .haltedFuelExhausted else s.runState := by simp [zeroFuelHalt]
@[simp] theorem zeroFuelHalt_input (s : State) : (zeroFuelHalt s).input = s.input := by simp [zeroFuelHalt]
@[simp] theorem zeroFuelHalt_output (s : State) : (zeroFuelHalt s).output = s.output := by simp [zeroFuelHalt]
@[simp] theorem zeroFuelHalt_params (s : State) : (zeroFuelHalt s).params = s.params := by simp [zeroFuelHalt]

@[simp] theorem storeResult_mem (v : Tryte) (s : State) : (storeResult v s).mem = s.mem.write s.d v := rfl
@[simp] theorem storeResult_c (v : Tryte) (s : State) : (storeResult v s).c = s.c := rfl
@[simp] theorem storeResult_d (v : Tryte) (s : State) : (storeResult v s).d = s.d := rfl
@[simp] theorem storeResult_a (v : Tryte) (s : State) : (storeResult v s).a = v := rfl
@[simp] theorem storeResult_fuel (v : Tryte) (s : State) : (storeResult v s).fuel = s.fuel := rfl
@[simp] theorem storeResult_runState (v : Tryte) (s : State) : (storeResult v s).runState = s.runState := rfl
@[simp] theorem storeResult_input (v : Tryte) (s : State) : (storeResult v s).input = s.input := rfl
@[simp] theorem storeResult_output (v : Tryte) (s : State) : (storeResult v s).output = s.output := rfl
@[simp] theorem storeResult_params (v : Tryte) (s : State) : (storeResult v s).params = s.params := rfl

@[simp] theorem selfModify_mem (c0 : Address) (s : State) :
    (selfModify c0 s).mem = s.mem.write c0 (rewriteWith s.params.perm (s.mem.read c0)) := rfl
@[simp] theorem selfModify_c (c0 : Address) (s : State) : (selfModify c0 s).c = s.c := rfl
@[simp] theorem selfModify_d (c0 : Address) (s : State) : (selfModify c0 s).d = s.d := rfl
@[simp] theorem selfModify_a (c0 : Address) (s : State) : (selfModify c0 s).a = s.a := rfl
@[simp] theorem selfModify_fuel (c0 : Address) (s : State) : (selfModify c0 s).fuel = s.fuel := rfl
@[simp] theorem selfModify_runState (c0 : Address) (s : State) : (selfModify c0 s).runState = s.runState := rfl
@[simp] theorem selfModify_input (c0 : Address) (s : State) : (selfModify c0 s).input = s.input := rfl
@[simp] theorem selfModify_output (c0 : Address) (s : State) : (selfModify c0 s).output = s.output := rfl
@[simp] theorem selfModify_params (c0 : Address) (s : State) : (selfModify c0 s).params = s.params := rfl

@[simp] theorem advance_mem (j : Bool) (s : State) : (advance j s).mem = s.mem := rfl
@[simp] theorem advance_c (j : Bool) (s : State) : (advance j s).c = if j then s.c else addWrap s.c 1 := rfl
@[simp] theorem advance_d (j : Bool) (s : State) : (advance j s).d = addWrap s.d 1 := rfl
@[simp] theorem advance_a (j : Bool) (s : State) : (advance j s).a = s.a := rfl
@[simp] theorem advance_fuel (j : Bool) (s : State) : (advance j s).fuel = s.fuel := rfl
@[simp] theorem advance_runState (j : Bool) (s : State) : (advance j s).runState = s.runState := rfl
@[simp] theorem advance_input (j : Bool) (s : State) : (advance j s).input = s.input := rfl
@[simp] theorem advance_output (j : Bool) (s : State) : (advance j s).output = s.output := rfl
@[simp] theorem advance_params (j : Bool) (s : State) : (advance j s).params = s.params := rfl

@[simp] theorem spendFuel_mem (s : State) : (spendFuel s).mem = s.mem := by unfold spendFuel; split <;> simp
@[simp] theorem spendFuel_c (s : State) : (spendFuel s).c = s.c := by unfold spendFuel; split <;> simp
@[simp] theorem spendFuel_d (s : State) : (spendFuel s).d = s.d := by unfold spendFuel; split <;> simp
@[simp] theorem spendFuel_a (s : State) : (spendFuel s).a = s.a := by unfold spendFuel; split <;> simp
@[simp] theorem spendFuel_fuel (s : State) : (spendFuel s).fuel = s.fuel - 1 := by unfold spendFuel; split <;> simp
@[simp] theorem spendFuel_runState (s : State) :
    (spendFuel s).runState = if s.fuel - 1 = 0 ∧ s.runState = .running then .haltedFuelExhausted else s.runState := by unfold spendFuel; split <;> simp_all
@[simp] theorem spendFuel_input (s : State) : (spendFuel s).input = s.input := by unfold spendFuel; split <;> simp
@[simp] theorem spendFuel_output (s : State) :
    (spendFuel s).output = s.output := by unfold spendFuel; split <;> simp
@[simp] theorem spendFuel_params (s : State) :
    (spendFuel s).params = s.params := by unfold spendFuel; split <;> simp

@[simp] theorem completeStep_mem (c0 : Address) (j : Bool) (s : State) :
    (completeStep c0 j s).mem = s.mem.write c0 (rewriteWith s.params.perm (s.mem.read c0)) := by simp [completeStep]
@[simp] theorem completeStep_c (c0 : Address) (j : Bool) (s : State) :
    (completeStep c0 j s).c = if j then s.c else addWrap s.c 1 := by simp [completeStep]
@[simp] theorem completeStep_d (c0 : Address) (j : Bool) (s : State) :
    (completeStep c0 j s).d = addWrap s.d 1 := by simp [completeStep]
@[simp] theorem completeStep_a (c0 : Address) (j : Bool) (s : State) :
    (completeStep c0 j s).a = s.a := by simp [completeStep]
@[simp] theorem completeStep_fuel (c0 : Address) (j : Bool) (s : State) :
    (completeStep c0 j s).fuel = s.fuel - 1 := by simp [completeStep]
@[simp] theorem completeStep_runState (c0 : Address) (j : Bool) (s : State) :
    (completeStep c0 j s).runState = if s.fuel - 1 = 0 ∧ s.runState = .running then .haltedFuelExhausted else s.runState := by
  rw [completeStep, spendFuel_runState]; rfl
@[simp] theorem completeStep_input (c0 : Address) (j : Bool) (s : State) :
    (completeStep c0 j s).input = s.input := by simp [completeStep]
@[simp] theorem completeStep_output (c0 : Address) (j : Bool) (s : State) :
    (completeStep c0 j s).output = s.output := by simp [completeStep]
@[simp] theorem completeStep_params (c0 : Address) (j : Bool) (s : State) :
    (completeStep c0 j s).params = s.params := by simp [completeStep]

end Sys2Proof.Machine
end

