-- ==== Sys2Proof/Laws/Memory.lean ====
section
/-! SUPPORT. What the memory operations do: read after write, and the canonical form kept by each of them. -/

namespace Sys2Proof.Machine

theorem lookupCell_insertCell (x y : Address) (v : Tryte) (l : List Cell) :
    lookupCell y (insertCell x v l) = if y = x then some v else lookupCell y l := by
  induction l with
  | nil => rfl
  | cons cell rest ih =>
    obtain ⟨b, u⟩ := cell
    unfold insertCell
    split
    · rfl
    · split
      · subst x; simp only [lookupCell]; split <;> rfl
      · simp only [lookupCell, ih]; grind

theorem lookupCell_eraseCell (x y : Address) (l : List Cell) :
    lookupCell y (eraseCell x l) = if y = x then none else lookupCell y l := by
  induction l with
  | nil => simp [eraseCell, lookupCell]
  | cons cell rest ih =>
    obtain ⟨b, u⟩ := cell
    unfold eraseCell
    split
    · subst b; rw [ih]; simp only [lookupCell]; grind
    · simp only [lookupCell, ih]; grind

/-- Read after write, at the written slot and at every other one (20_memory.md R43). -/
theorem Memory.read_write (m : Memory) (x y : Address) (v : Tryte) :
    (m.write x v).read y = if y = x then v else m.read y := by
  unfold Memory.write
  split
  · rename_i hv
    simp only [Memory.read, lookupCell_eraseCell]
    by_cases h : y = x
    · subst h; simp [hv]
    · simp [h]
  · simp only [Memory.read, lookupCell_insertCell]
    by_cases h : y = x <;> simp [h]

@[simp] theorem Memory.read_write_same (m : Memory) (x : Address) (v : Tryte) : (m.write x v).read x = v := by
  simp [Memory.read_write]

theorem Memory.read_write_other (m : Memory) {x y : Address} (v : Tryte) (h : y ≠ x) :
    (m.write x v).read y = m.read y := by
  simp [Memory.read_write, h]

@[simp] theorem Memory.write_image (m : Memory) (x : Address) (v : Tryte) : (m.write x v).image = m.image := by
  unfold Memory.write; split <;> rfl

theorem mem_insertCell {x : Address} {v : Tryte} {l : List Cell} {cell : Cell} (h : cell ∈ insertCell x v l) :
    cell = (x, v) ∨ cell ∈ l := by
  induction l with
  | nil => simpa [insertCell] using h
  | cons head rest ih => unfold insertCell at h; grind

theorem insertCell_sorted (x : Address) (v : Tryte) {l : List Cell} (h : l.Pairwise fun p q => p.1 < q.1) :
    (insertCell x v l).Pairwise fun p q => p.1 < q.1 := by
  induction l with
  | nil => simp [insertCell]
  | cons head rest ih =>
    obtain ⟨b, u⟩ := head
    rw [List.pairwise_cons] at h
    unfold insertCell
    split
    · rename_i hlt
      refine List.pairwise_cons.2 ⟨fun q hq => ?_, List.pairwise_cons.2 h⟩
      rcases List.mem_cons.1 hq with rfl | hq
      · exact hlt
      · exact hlt.trans (h.1 q hq)
    · split
      · subst b; exact List.pairwise_cons.2 h
      · rename_i hge hne
        refine List.pairwise_cons.2 ⟨fun q hq => ?_, ih h.2⟩
        rcases mem_insertCell hq with rfl | hq
        · exact lt_of_le_of_ne (not_lt.1 hge) fun e => hne e.symm
        · exact h.1 q hq

theorem eraseCell_sublist (x : Address) (l : List Cell) : (eraseCell x l).Sublist l := by
  induction l with
  | nil => exact List.Sublist.refl _
  | cons head rest ih =>
    unfold eraseCell
    split
    · exact ih.cons _
    · exact ih.cons_cons _

/-- The canonical form in words: addresses rising, and no listed word equal to the unlisted one. -/
theorem Memory.wf_iff (m : Memory) :
    m.wf ↔ m.cells.Pairwise (fun x y => x.1 < y.1) ∧ ∀ x ∈ m.cells, x.2 ≠ loadedWord m.image x.1 := by
  simp only [Memory.wf, List.all_eq_true, bne_iff_ne]

/-- Every write keeps the canonical form. -/
theorem Memory.write_wf {m : Memory} (h : m.wf) (x : Address) (v : Tryte) : (m.write x v).wf := by
  rw [Memory.wf_iff] at h ⊢
  unfold Memory.write
  split
  · exact ⟨h.1.sublist (eraseCell_sublist x _), fun p hp => h.2 p ((eraseCell_sublist x _).subset hp)⟩
  · rename_i hv
    refine ⟨insertCell_sorted x v h.1, fun p hp => ?_⟩
    rcases mem_insertCell hp with rfl | hp
    · exact hv
    · exact h.2 p hp

theorem Memory.ofImage_wf (image : List Tryte) : (Memory.ofImage image).wf := ⟨List.Pairwise.nil, rfl⟩

@[simp] theorem Memory.read_ofImage (image : List Tryte) (x : Address) :
    (Memory.ofImage image).read x = loadedWord image x := rfl

theorem reset_mem_wf : State.reset.mem.wf := Memory.ofImage_wf []

theorem Memory.withWordAtZero_wf {m : Memory} (h : m.wf) (w : Tryte) : (m.withWordAtZero w).wf := by
  unfold Memory.withWordAtZero
  split
  · exact Memory.ofImage_wf _
  · exact Memory.write_wf h _ _

@[simp] theorem Memory.read_withWordAtZero (m : Memory) (w : Tryte) : (m.withWordAtZero w).read 0 = w := by
  unfold Memory.withWordAtZero
  split
  · rfl
  · simp

end Sys2Proof.Machine
end

