-- ==== Sys2Proof/Laws/PerInstr.lean ====
section
/-! SUPPORT. Statements about the instructions as syntax, one lemma per constructor. -/

namespace Sys2Proof.Laws.EncodePrintable

/-- The encoding of an instruction is a printable word under every OPMAP at every address (30_encoding.md R71). -/
def Statement (i : Instr) : Prop := 
  ∀ (m : OpMap) (addr : Address), 33 ≤ (encodeWith m i addr).val ∧ (encodeWith m i addr).val ≤ 126

/-- Every word that `placeKey` gives is printable. -/
theorem placeKey_printable (k : Key) (addr : Address) :
    33 ≤ (placeKey k addr).val ∧ (placeKey k addr).val ≤ 126 := by
  rw [placeKey_val]; omega

theorem setData : Statement .setData := fun _ addr => placeKey_printable _ addr

theorem jump : Statement .jump := fun _ addr => placeKey_printable _ addr

theorem rotate : Statement .rotate := fun _ addr => placeKey_printable _ addr

theorem crazy : Statement .crazy := fun _ addr => placeKey_printable _ addr

theorem output : Statement .output := fun _ addr => placeKey_printable _ addr

theorem input : Statement .input := fun _ addr => placeKey_printable _ addr

theorem halt : Statement .halt := fun _ addr => placeKey_printable _ addr

theorem nop : Statement .nop := fun _ addr => placeKey_printable _ addr

theorem invalid : Statement .invalid := fun _ addr => placeKey_printable _ addr

end Sys2Proof.Laws.EncodePrintable
end

