-- ==== Sys2Proof/Laws/Step.lean ====
section
/-! SUPPORT. What a step can do, said once: the arms of exec as `completeStep` of the handler's state, and the inversion
of `step`. -/

namespace Sys2Proof.Machine

/-- The state that the handler of `i` leaves (sub-step 2), as a function; `exec` is `completeStep` of it. -/
def handled (i : Instr) (s : State) : State :=
  match i with
  | .setData => { s with d := operand s }
  | .jump => { s with c := operand s }
  | .rotate => storeResult (rotateRight (operand s)) s
  | .crazy => storeResult (crazy s.a (operand s)) s
  | .output => { s with output := s.output ++ [outputByte s.a] }
  | .input => takeInput s
  | .halt => halt .haltedExplicit s
  | .nop => s
  | .invalid => s

/-- Every instruction answers a next state: sub-steps 3 to 5 on what its handler leaves. -/
theorem exec_eq (i : Instr) (s : State) : exec i s = .next (completeStep s.c (i == .jump) (handled i s)) := by
  cases i <;> rfl

/-- What a step that answers a next state has done: the zero-fuel check, or one instruction. -/
theorem step_cases {s t : State} (h : step s = .next t) :
    (s.runState = .running ∧ s.fuel = 0 ∧ t = zeroFuelHalt s) ∨
      (s.Enabled ∧ t = completeStep s.c (fetchInstr s == .jump) (handled (fetchInstr s) s)) := by
  unfold step at h
  split at h
  · cases h
  · rename_i hr
    have hr : s.runState = .running := not_not.1 hr
    split at h
    · rename_i hf
      exact .inl ⟨hr, hf, by simpa using h.symm⟩
    · rename_i hf
      rw [exec_eq] at h
      exact .inr ⟨⟨hr, Nat.pos_of_ne_zero hf⟩, by simpa using h.symm⟩

/-- One step of the host's run of the machine. -/
theorem core_run_succ (k : Nat) (s : State) :
    Sys2Proof.core.run (k + 1) s =
      match step s with
      | .next t => Sys2Proof.core.run k t
      | .fault r => .fault r
      | .refused r => .refused r := by
  refine (Host.Core.run.eq_2 Sys2Proof.core s k).trans ?_
  have h : Sys2Proof.core.step s = step s := rfl
  rw [h]
  cases step s <;> rfl

theorem takeInput_nil {s : State} (h : s.input = []) : takeInput s = halt .haltedInputExhausted s := by
  simp [takeInput, h]

theorem takeInput_cons {s : State} {b : Byte} {rest : List Byte} (h : s.input = b :: rest) :
    takeInput s = { s with a := zext b, input := rest } := by
  simp [takeInput, h]

/-- A handler leaves MEM alone but for the store of Rotate and Crazy. -/
theorem handled_mem (i : Instr) (s : State) :
    (handled i s).mem = s.mem ∨ ∃ v, (i = .rotate ∨ i = .crazy) ∧ (handled i s).mem = s.mem.write s.d v := by
  cases i <;> simp [handled]
  simp only [takeInput]; split <;> simp

@[simp] theorem handled_fuel (i : Instr) (s : State) : (handled i s).fuel = s.fuel := by
  cases i <;> simp [handled]
  simp only [takeInput]; split <;> simp

@[simp] theorem handled_params (i : Instr) (s : State) : (handled i s).params = s.params := by
  cases i <;> simp [handled]
  simp only [takeInput]; split <;> simp

/-- No step writes the configuration (10_state.md R31). -/
theorem step_params {s t : State} (h : step s = .next t) : t.params = s.params := by
  obtain ⟨-, -, rfl⟩ | ⟨-, rfl⟩ := step_cases h <;> simp

end Sys2Proof.Machine
end

