-- ==== Sys2Proof/Tests/Slice0.lean ====
section
/-! SUPPORT. The model's own tests. Expected values are those of spec/95_test_vectors.md, named beside each test, or of
the worked examples of the rules. Each test of an instruction is one step. -/

namespace Sys2Proof.Tests

open Sys2Proof.Machine

/-- A memory whose first `n` words were loaded as 68, but for the words listed. -/
def memOf (n : Nat) (words : List (Nat × Tryte)) : Memory :=
  Memory.ofImage (words.foldl (fun l p => l.set p.1 p.2) (List.replicate n 68))

/-- A running state over that memory with FUEL 5. -/
def st (n : Nat) (words : List (Nat × Tryte)) (c d : Address) (a : Tryte) : State :=
  { State.reset with mem := memOf n words, c := c, d := d, a := a, fuel := 5 }

def after (o : Host.Outcome State Fault Refusal) : Option State :=
  match o with
  | .next t => some t
  | .fault _ => none
  | .refused _ => none

/-- What the step tests look at: the executed slot, another slot, C, D, A, FUEL and STATE. -/
structure View where
  executed : Tryte
  other : Tryte
  c : Address
  d : Address
  a : Tryte
  fuel : Nat
  runState : RunState
  deriving DecidableEq

def look (x y : Address) (o : Host.Outcome State Fault Refusal) : Option View :=
  (after o).map fun t => ⟨t.mem.read x, t.mem.read y, t.c, t.d, t.a, t.fuel, t.runState⟩

/-! Well-formedness: an ill-formed term for each check. -/

theorem test_opmap_wf : OpMap.wf opmap := by decide

theorem test_opmap_repeated_key_refused : ¬ OpMap.wf { opmap with jump := opmap.setData } := by decide

theorem test_perm94_wf : Perm94.wf perm94 := by decide +kernel

theorem test_perm94_repeated_entry_refused : ¬ Perm94.wf (perm94.set 0 89) := by decide +kernel

/-! The ALU (V1, V2, V3, V4). -/

theorem test_decompose_1131 : decompose 1131 = #v[0, 2, 2, 2, 1, 1, 1, 0, 0, 0] := by decide

theorem test_compose_12345 : compose #v[0, 2, 0, 1, 2, 2, 1, 2, 1, 0] = 12345 := by decide

theorem test_crazy_mixed : crazy 1131 11355 = 20650 ∧ crazy 11355 1131 = 30802 := by decide

theorem test_rotateRight : rotateRight 12345 = 37035 ∧ rotateRight 1 = 3 ∧ rotateRight 39366 = 2 := by decide

theorem test_addWrap : addWrap 59048 1 = 0 ∧ addWrap 30000 30000 = 951 := by decide

theorem test_subWrap : subWrap 0 1 = 59048 ∧ subWrap 5 7 = 59047 := by decide

theorem test_mkAddress :
    (mkAddress 59048).toOption = some 59048 ∧ (mkAddress 59049).toOption = none ∧ (mkAddress (-1)).toOption = none := by
  decide

/-! Decoding: words written out trit by trit, least significant first (V1, V5, the placement table of 2.5). -/

theorem test_decode_setData : decode (compose #v[1, 1, 1, 1, 0, 0, 0, 0, 0, 0]) 0 = .setData := by decide

theorem test_decode_jump : decode (compose #v[2, 2, 1, 0, 1, 0, 0, 0, 0, 0]) 0 = .jump := by decide

theorem test_decode_rotate : decode (compose #v[0, 1, 1, 1, 0, 0, 0, 0, 0, 0]) 0 = .rotate := by decide

theorem test_decode_crazy : decode (compose #v[2, 2, 0, 2, 0, 0, 0, 0, 0, 0]) 0 = .crazy := by decide

theorem test_decode_output : decode (compose #v[0, 0, 2, 0, 1, 0, 0, 0, 0, 0]) 0 = .output := by decide

theorem test_decode_input : decode (compose #v[0, 0, 1, 1, 1, 0, 0, 0, 0, 0]) 0 = .input := by decide

theorem test_decode_halt : decode (compose #v[0, 0, 0, 0, 1, 0, 0, 0, 0, 0]) 0 = .halt := by decide

theorem test_decode_nop : decode (compose #v[2, 1, 1, 2, 0, 0, 0, 0, 0, 0]) 0 = .nop := by decide

theorem test_decode_invalid : decode (compose #v[0, 2, 0, 1, 0, 0, 0, 0, 0, 0]) 0 = .invalid := by decide

theorem test_decode_edges :
    key 0 0 = 61 ∧ key 59048 59048 = 93 ∧ decode 0 5 = .output ∧ decode 188 5 = .output ∧ decode 52 59048 = .nop := by
  decide

theorem test_encode_places :
    encode .setData 59048 = 118 ∧ encode .jump 93 = 99 ∧ encode .rotate 35 = 98 ∧ encode .crazy 36 = 120 ∧
      encode .output 5 = 94 ∧ encode .input 1 = 116 ∧ encode .halt 36 = 45 ∧ encode .nop 35 = 33 ∧
      encode .nop 36 = 126 := by
  decide

theorem test_table_words :
    decodeTableWord 16 40 = some .setData ∧ decodeTableWord 16 117 = some .input ∧ decodeTableWord 16 59049 = none := by
  decide

/-- Every table row's word runs as the first instruction after reset. -/
theorem test_withFetchWord :
    fetchInstr (State.reset.withFetchWord 16 98) = .jump ∧
      look 0 0 (step (State.reset.withFetchWord 16 98)) =
        some ⟨84, 84, 98, 1, 0, 0, .haltedFuelExhausted⟩ := by
  decide

/-! The rewrite (V6). -/

theorem test_rewrite_ends : rewrite 33 = 53 ∧ rewrite 126 = 64 ∧ rewrite 256 = 33 ∧ rewrite 59048 = 126 := by decide

theorem test_rewrite_below_33 : rewrite 0 = 57 ∧ rewrite 32 = 64 := by decide

/-! Single steps (V7). -/

theorem test_setData_own_word : look 0 0 (step (st 1 [(0, 40)] 0 0 0)) = some ⟨121, 121, 1, 41, 0, 4, .running⟩ := by
  decide -- V7.1

theorem test_setData_wraps :
    look 5 100 (step (st 101 [(5, 35), (100, 59048)] 5 100 7)) = some ⟨93, 59048, 6, 0, 7, 4, .running⟩ := by
  decide -- V7.3

theorem test_jump_own_word : look 0 0 (step (st 1 [(0, 98)] 0 0 0)) = some ⟨84, 84, 98, 1, 0, 4, .running⟩ := by
  decide -- V7.4

theorem test_jump_to_itself :
    look 5 100 (step (st 101 [(5, 93), (100, 5)] 5 100 77)) = some ⟨98, 5, 5, 101, 77, 4, .running⟩ := by
  decide -- V7.6

theorem test_rotate_old_a_lost :
    look 5 100 (step (st 101 [(5, 34), (100, 59047)] 5 100 9)) = some ⟨122, 59045, 6, 101, 59045, 4, .running⟩ := by
  decide -- V7.9

theorem test_rotate_own_slot : look 0 0 (step (st 1 [(0, 39)] 0 0 0)) = some ⟨111, 111, 1, 1, 117, 4, .running⟩ := by
  decide -- V7.10

theorem test_crazy_a_first :
    look 5 100 (step (st 101 [(5, 57), (100, 11355)] 5 100 1131)) = some ⟨91, 20650, 6, 101, 20650, 4, .running⟩ := by
  decide -- V7.11

theorem test_crazy_own_slot : look 0 0 (step (st 1 [(0, 62)] 0 0 0)) = some ⟨83, 83, 1, 1, 29493, 4, .running⟩ := by
  decide -- V7.14

theorem test_output_appends :
    (after (step { st 10 [(5, 94)] 5 9 59048 with output := [1, 2] })).map (fun t => (t.output, t.a, t.c, t.d)) =
      some ([1, 2, 168], 59048, 6, 10) := by
  decide -- V7.16

theorem test_output_word_above_126 :
    (after (step (st 10 [(5, 188)] 5 9 321))).map (fun t => (t.output, t.mem.read 5)) = some ([65], 57) := by
  decide -- V7.18

theorem test_input_takes_first :
    (after (step { st 10 [(5, 112)] 5 9 777 with input := [255, 0] })).map (fun t => (t.a, t.input, t.mem.read 5)) =
      some (255, [0], 68) := by
  decide -- V7.19

theorem test_input_exhausted_last_fuel :
    look 5 9 (step { st 10 [(5, 112)] 5 9 777 with fuel := 1 }) = some ⟨68, 68, 6, 10, 777, 0, .haltedInputExhausted⟩ := by
  decide -- V7.21

theorem test_halt_last_fuel :
    look 0 0 (step { st 1 [(0, 81)] 0 0 0 with fuel := 1 }) = some ⟨54, 54, 1, 1, 0, 0, .haltedExplicit⟩ := by
  decide -- V7.23

theorem test_halt_completes :
    look 5 9 (step { st 10 [(5, 76)] 5 59048 12 with fuel := 3 }) = some ⟨79, 68, 6, 0, 12, 2, .haltedExplicit⟩ := by
  decide -- V7.24

theorem test_nop_last_fuel :
    look 5 9 (step { st 10 [(5, 63)] 5 9 4 with fuel := 1 }) = some ⟨43, 68, 6, 10, 4, 0, .haltedFuelExhausted⟩ := by
  decide -- V7.28

theorem test_zero_fuel_check :
    look 5 9 (step { st 10 [(5, 63)] 5 9 4 with fuel := 0 }) = some ⟨63, 68, 5, 9, 4, 0, .haltedFuelExhausted⟩ := by
  decide -- V7.27

theorem test_invalid_word_above_126 :
    look 5 9 (step (st 10 [(5, 59048)] 5 9 4)) = some ⟨126, 68, 6, 10, 4, 4, .running⟩ := by
  decide -- V7.30

theorem test_invalid_word_0 : look 0 0 (step (st 1 [(0, 0)] 0 0 4)) = some ⟨57, 57, 1, 1, 4, 4, .running⟩ := by
  decide -- V7.32

/-- The state of V7.26: a Nop at the top of memory, with both pointers there. -/
def topState : State where
  mem := { image := [68], cells := [(59048, 52)] }
  c := 59048
  d := 59048
  a := 4
  fuel := 5
  runState := .running
  input := []
  output := []
  params := Params.default

/-- V7.26: both pointers wrap. -/
theorem test_nop_wraps :
    ∃ t, exec .nop topState = .next t ∧ t.c = 0 ∧ t.d = 0 ∧ t.mem.read 59048 = 72 := by
  refine ⟨_, rfl, rfl, rfl, ?_⟩
  rw [completeStep_mem]
  exact Memory.read_write_same _ _ _

/-- Another configuration: two keys of the default OPMAP exchanged, and the identity as PERM94. -/
def otherParams : Params where
  opmap := { opmap with setData := opmap.halt, halt := opmap.setData }
  perm := Vector.ofFn id

theorem test_otherParams_wf : otherParams.wf := ⟨by decide, by decide +kernel⟩

/-- Under it 81 is SetData at address 0 (R63) and the identity keeps the executed word (R101). -/
theorem test_step_under_other_tables :
    look 0 0 (step { st 1 [(0, 81)] 0 0 0 with params := otherParams }) = some ⟨81, 81, 1, 82, 0, 4, .running⟩ := by
  decide

theorem test_run_under_other_tables : (run 1 (load otherParams [40] [])).2 = .ran [] .haltedExplicit := by decide

/-- R8: tables that are no OPMAP and PERM94 are refused at the host boundary. -/
theorem test_ill_formed_tables_refused :
    hostMove (.load { Params.default with opmap := { opmap with jump := opmap.setData } } [99] []) none =
      .error .illFormedParams := rfl

/-- A terminal state has no step. -/
theorem test_run_over :
    step { State.reset with runState := .haltedExplicit } = .fault (.runOver .haltedExplicit) := rfl

/-! Load and run (V8, V9). -/

theorem test_load_empty : load Params.default [] [] = .failed .emptyProgram := by decide

theorem test_load_too_large : load Params.default (List.replicate 59050 68) [] = .failed .tooLarge := by
  have hv : validate (List.replicate 59050 68) = some .tooLarge := by
    unfold validate
    rw [List.length_replicate, if_neg (by decide), if_pos (by decide)]
  unfold load
  rw [hv]

theorem test_load_invalid_byte : load Params.default [99, 80, 200, 10] [] = .failed (.invalidByte 2) := by decide

theorem test_load_places :
    load Params.default [99, 80] [7] = .loaded { State.reset with mem := Memory.ofImage [99, 80], input := [7] } :=
  rfl

theorem test_run_zero : (run 0 (load Params.default [99, 80] [])).2 = .ran [] .haltedFuelExhausted := by decide

theorem test_run_two : (run 2 (load Params.default [99, 80] [])).2 = .ran [0] .haltedExplicit := by decide

/-! Witnesses: for each statement with hypotheses, a concrete state and operands that meet all of them, and for each
clause of a statement with several a value that falls under it. -/

theorem witness_WrittenWordLastsUntilOverwritten :
    ∀ p ∈ [((1 : Address), (5 : Tryte)), (59048, 7)], p.1 ≠ (0 : Address) := by
  simp

theorem witness_EqualReadsMeanEqualMemory :
    Memory.wf { image := [68], cells := [(0, 5)] } := by
  decide

theorem witness_MkAddressAcceptsExactlyTheRange :
    mkAddress 0 = .ok 0 ∧ mkAddress 59048 = .ok 59048 ∧ mkAddress 59049 = .error .outOfRange ∧
      mkAddress (-1) = .error .outOfRange := ⟨rfl, rfl, rfl, rfl⟩

/-- Five accesses for a Rotate, three for a Nop. -/
theorem witness_StepAccessesBoundItsStores :
    (st 2 [(0, 39)] 0 1 0).Enabled ∧ (stepAccesses (st 2 [(0, 39)] 0 1 0)).length = 5 ∧
      (stepAccesses (st 1 [(0, 68)] 0 0 0)).length = 3 := by
  decide

theorem witness_DecodeIsByKey :
    OpMap.wf opmap ∧ opmap.keyOf .setData = some 7 ∧ key 40 0 = 7 ∧ key 33 0 ∉ opmap.keys ∧ key 126 0 ∉ opmap.keys := by
  decide

theorem witness_DecodingDependsOnPosition :
    (1 : Address).val = (0 : Address).val + 1 ∧ (59048 : Address).val = (59047 : Address).val + 1 ∧ key 68 0 = key 68 94 := by
  decide

theorem witness_PlaceIsTheOnlyPrintableWord :
    OpMap.wf opmap ∧ placeWith opmap .nop 35 = some 33 ∧ placeWith opmap .nop 36 = some 126 := by
  decide

theorem witness_DecodeOfEncodeIsIdentity :
    OpMap.wf opmap ∧ Instr.wf .invalid = true ∧ decode 33 35 ≠ .invalid ∧ decode 126 36 ≠ .invalid ∧ decode 0 5 ≠ .invalid := by
  decide

theorem witness_RewriteLooksUpTheTable :
    (((61 : Key).val : Int) = (((0 : Tryte).val : Int) - 33) % 94) ∧
      (((93 : Key).val : Int) = (((126 : Tryte).val : Int) - 33) % 94) := by
  decide

theorem witness_RewriteRangeLaws : Perm94.wf perm94 ∧ (127 : Tryte).val = (33 : Tryte).val + 94 :=
  ⟨test_perm94_wf, rfl⟩

theorem witness_DefaultRewriteHasNoFixedPoint :
    (33 ≤ (33 : Tryte).val ∧ (33 : Tryte).val ≤ 126) ∧ 33 ≤ (126 : Tryte).val ∧ (126 : Tryte).val ≤ 126 := by
  decide

theorem witness_SetDataLoadsPointer :
    (st 1 [(0, 40)] 0 0 0).Enabled ∧ key ((st 1 [(0, 40)] 0 0 0).mem.read 0) 0 = (st 1 [(0, 40)] 0 0 0).params.opmap.setData ∧
      (st 1 [(0, 40)] 0 0 0).params.opmap.wf := by
  decide

theorem witness_JumpRedirectsCodePointer :
    (st 1 [(0, 98)] 0 0 0).Enabled ∧ key ((st 1 [(0, 98)] 0 0 0).mem.read 0) 0 = (st 1 [(0, 98)] 0 0 0).params.opmap.jump ∧
      (st 1 [(0, 98)] 0 0 0).params.opmap.wf := by
  decide

theorem witness_RotateStoresRotatedWord :
    (st 2 [(0, 39)] 0 1 0).Enabled ∧ key ((st 2 [(0, 39)] 0 1 0).mem.read 0) 0 = (st 2 [(0, 39)] 0 1 0).params.opmap.rotate ∧
      (st 2 [(0, 39)] 0 1 0).params.opmap.wf := by
  decide

theorem witness_CrazyStoresCombinedWord :
    (st 2 [(0, 62)] 0 1 0).Enabled ∧ key ((st 2 [(0, 62)] 0 1 0).mem.read 0) 0 = (st 2 [(0, 62)] 0 1 0).params.opmap.crazy ∧
      (st 2 [(0, 62)] 0 1 0).params.opmap.wf := by
  decide

theorem witness_OutputAppendsByte :
    (st 1 [(0, 99)] 0 0 0).Enabled ∧ key ((st 1 [(0, 99)] 0 0 0).mem.read 0) 0 = (st 1 [(0, 99)] 0 0 0).params.opmap.output ∧
      (st 1 [(0, 99)] 0 0 0).params.opmap.wf := by
  decide

theorem witness_InputConsumesFirstByte :
    ({ st 1 [(0, 117)] 0 0 0 with input := [255] } : State).Enabled ∧
      key ((st 1 [(0, 117)] 0 0 0).mem.read 0) 0 = (st 1 [(0, 117)] 0 0 0).params.opmap.input ∧
      (st 1 [(0, 117)] 0 0 0).params.opmap.wf := by
  decide

theorem witness_InputExhaustedEndsRun :
    (st 1 [(0, 117)] 0 0 0).Enabled ∧ (st 1 [(0, 117)] 0 0 0).input = [] ∧
      key ((st 1 [(0, 117)] 0 0 0).mem.read 0) 0 = (st 1 [(0, 117)] 0 0 0).params.opmap.input ∧
      (st 1 [(0, 117)] 0 0 0).params.opmap.wf := by
  decide

theorem witness_HaltEndsRunExplicitly :
    ({ st 1 [(0, 81)] 0 0 0 with fuel := 1 } : State).Enabled ∧
      key ((st 1 [(0, 81)] 0 0 0).mem.read 0) 0 = (st 1 [(0, 81)] 0 0 0).params.opmap.halt ∧
      (st 1 [(0, 81)] 0 0 0).params.opmap.wf := by
  decide

theorem witness_NopOnlyAdvances :
    ({ st 1 [(0, 68)] 0 0 0 with fuel := 1 } : State).Enabled ∧
      key ((st 1 [(0, 68)] 0 0 0).mem.read 0) 0 = (st 1 [(0, 68)] 0 0 0).params.opmap.nop ∧
      (st 1 [(0, 68)] 0 0 0).params.opmap.wf := by
  decide

theorem witness_InvalidActsAsNop :
    (st 1 [(0, 33)] 0 0 0).Enabled ∧ key ((st 1 [(0, 33)] 0 0 0).mem.read 0) 0 ∉ (st 1 [(0, 33)] 0 0 0).params.opmap.keys := by
  decide

theorem witness_StepExecutesDecodedWord : (st 1 [(0, 40)] 0 0 0).Enabled := by decide

theorem witness_ZeroFuelExecutesNothing : State.reset.runState = .running ∧ State.reset.fuel = 0 := by decide

theorem witness_TerminalStateHasNoStep :
    ({ State.reset with runState := .haltedExplicit } : State).runState ≠ .running := by decide

theorem witness_HaltWritesOnlyRunState :
    State.reset.runState = .running ∧ (halt .haltedExplicit State.reset).runState ≠ .running := by decide

/-- A Halt, an exhausted Input, another instruction with its last unit of FUEL and with more. -/
theorem witness_FullStepSpendsOneFuel :
    fetchInstr (st 1 [(0, 81)] 0 0 0) = .halt ∧ fetchInstr (st 1 [(0, 117)] 0 0 0) = .input ∧
      ({ st 1 [(0, 68)] 0 0 0 with fuel := 1 } : State).Enabled ∧ (st 1 [(0, 68)] 0 0 0).Enabled := by
  decide

/-- A Rotate changes the slot D names and A; an Output, an Input and a Halt change what they may. -/
theorem witness_StepChangesAtMost :
    (st 2 [(0, 39)] 0 1 0).Enabled ∧
      look 1 1 (step (st 2 [(0, 39)] 0 1 0)) = some ⟨204, 204, 1, 2, 204, 4, .running⟩ := by
  decide

theorem witness_OnlyJumpRedirects :
    (st 1 [(0, 98)] 0 0 0).Enabled ∧ fetchInstr (st 1 [(0, 98)] 0 0 0) = .jump ∧
      fetchInstr (st 1 [(0, 40)] 0 0 0) = .setData ∧ fetchInstr (st 1 [(0, 68)] 0 0 0) = .nop := by
  decide

theorem witness_OnlyStoresMakeUnprintableWords :
    ∃ t, step (st 2 [(0, 39)] 0 1 0) = .next t ∧
      (33 ≤ ((st 2 [(0, 39)] 0 1 0).mem.read 1).val ∧ ((st 2 [(0, 39)] 0 1 0).mem.read 1).val ≤ 126) ∧
      ¬ (33 ≤ (t.mem.read 1).val ∧ (t.mem.read 1).val ≤ 126) :=
  ⟨_, rfl, by decide, by decide⟩

theorem witness_StepLawsForEveryTable :
    (st 1 [(0, 68)] 0 0 0).Enabled ∧ decodeWith Params.default.opmap ((st 1 [(0, 68)] 0 0 0).mem.read 0) 0 ≠ .jump := by
  decide

theorem witness_ConfigurationIsFixed :
    (∃ s, load otherParams [40] [] = .loaded s) ∧
      ∃ t, step { st 1 [(0, 81)] 0 0 0 with params := otherParams } = .next t :=
  ⟨⟨_, rfl⟩, _, rfl⟩

theorem witness_EveryStepKeepsInvariant :
    (st 2 [(0, 39)] 0 1 0).Inv ∧ ∃ t, step (st 2 [(0, 39)] 0 1 0) = .next t :=
  ⟨⟨params_default_wf, by decide⟩, _, rfl⟩

theorem witness_ReachableStatesAreGood :
    ∃ s t, Reachable s ∧ step s = .next t ∧ t.output = [0] :=
  ⟨writeBudget 2 { State.reset with mem := Memory.ofImage [99, 80] }, _,
    .budget 2 (.load (P := Params.default) (text := [99, 80]) (input := []) params_default_wf rfl), rfl, by decide⟩

theorem witness_OutputIsWriteOnly : ∃ t, step (st 1 [(0, 99)] 0 0 0) = .next t ∧ t.output = [0] := ⟨_, rfl, by decide⟩

theorem witness_InputHasNoLookahead :
    ∃ t, ({ st 1 [(0, 117)] 0 0 0 with input := [255] } : State).input ≠ [] ∧
      step { st 1 [(0, 117)] 0 0 0 with input := [255] } = .next t :=
  ⟨_, by decide, rfl⟩

theorem witness_FuelIsInvisible : ∃ t, 2 ≤ (st 1 [(0, 40)] 0 0 0).fuel ∧ step (st 1 [(0, 40)] 0 0 0) = .next t :=
  ⟨_, by decide, rfl⟩

theorem witness_LoadErrorsInOrder :
    load Params.default [] [] = .failed .emptyProgram ∧ load Params.default [32] [] = .failed (.invalidByte 0) ∧
      load Params.default [33, 126, 127] [] = .failed (.invalidByte 2) := by
  decide

theorem witness_LoadLeavesResetState : ∃ s, Params.default.wf ∧ load Params.default [33, 126] [7] = .loaded s :=
  ⟨_, params_default_wf, rfl⟩

theorem witness_EveryRunEnds : ∃ t, step State.reset = .next t ∧ t.runState ≠ .running := ⟨_, rfl, by decide⟩

theorem witness_LargerBudgetExtendsRun :
    (runLoaded 1 [] (st 1 [(0, 99)] 0 0 0)).output = [0] ∧
      (runLoaded 1 [] (st 1 [(0, 81)] 0 0 0)).runState ≠ .haltedFuelExhausted := by
  decide

theorem witness_RunOnEndedInstanceChangesNothing :
    ({ State.reset with runState := .haltedInputExhausted } : State).runState ≠ .running := by decide

theorem witness_CancellationEndsRun : ∃ t, lowerFuel 0 (st 1 [(0, 40)] 0 0 0) = some t := ⟨_, rfl⟩

end Sys2Proof.Tests
end

section
/-! PROOFS for 00_scope.md: entering a terminal state (R15), the laws of a step under any two tables (R8, R9), and the
invariant at reset and over every step. The facts about the shared operations come first. -/

namespace Sys2Proof.Machine

/-! ## Entering a terminal state -/

theorem halt_of_running {s : State} (r : RunState) (h : s.runState = .running) :
    halt r s = { s with runState := r } := if_pos h

theorem halt_of_not_running {s : State} (r : RunState) (h : s.runState ≠ .running) : halt r s = s := if_neg h

theorem halt_isLoadError {r : RunState} {s : State} (hr : r.isLoadError = false)
    (hs : s.runState.isLoadError = false) : (halt r s).runState.isLoadError = false := by
  rw [halt_runState]
  split
  · exact hr
  · exact hs

/-! ## The handler -/

theorem handled_image (i : Instr) (s : State) : (handled i s).mem.image = s.mem.image := by
  obtain h | ⟨v, -, h⟩ := handled_mem i s <;> simp [h]

theorem handled_mem_wf (i : Instr) {s : State} (hs : s.mem.wf) : (handled i s).mem.wf := by
  obtain h | ⟨v, -, h⟩ := handled_mem i s
  · exact h ▸ hs
  · exact h ▸ Memory.write_wf hs s.d v

/-- The only slot that a handler can write is the one D names. -/
theorem handled_read_of_ne (i : Instr) {s : State} {x : Address} (hx : x ≠ s.d) :
    (handled i s).mem.read x = s.mem.read x := by
  obtain h | ⟨v, -, h⟩ := handled_mem i s
  · rw [h]
  · rw [h, Memory.read_write_other _ _ hx]

@[simp] theorem takeInput_c (s : State) : (takeInput s).c = s.c := by
  unfold takeInput; split <;> simp

theorem handled_c {i : Instr} (hi : i ≠ .jump) (s : State) : (handled i s).c = s.c := by
  cases i with
  | jump => exact absurd rfl hi
  | input => exact takeInput_c s
  | halt => exact halt_c _ s
  | _ => rfl

theorem takeInput_isLoadError {s : State} (hs : s.runState.isLoadError = false) :
    (takeInput s).runState.isLoadError = false := by
  unfold takeInput
  split
  · exact halt_isLoadError rfl hs
  · exact hs

theorem handled_isLoadError (i : Instr) {s : State} (hs : s.runState.isLoadError = false) :
    (handled i s).runState.isLoadError = false := by
  cases i with
  | input => exact takeInput_isLoadError hs
  | halt => exact halt_isLoadError rfl hs
  | _ => exact hs

/-! ## The completion of a step -/

/-- Every rewritten word is printable, whatever the table (41_self_modification.md R104). -/
theorem rewriteWith_printable (p : Perm94) (w : Tryte) :
    33 ≤ (rewriteWith p w).val ∧ (rewriteWith p w).val ≤ 126 := by
  have hval : (rewriteWith p w).val = (p.get (rewriteIndex w)).val + 33 := rfl
  omega

theorem completeStep_read_same (c0 : Address) (j : Bool) (s : State) :
    (completeStep c0 j s).mem.read c0 = rewriteWith s.params.perm (s.mem.read c0) := by simp

theorem completeStep_read_of_ne {c0 x : Address} (j : Bool) (s : State) (hx : x ≠ c0) :
    (completeStep c0 j s).mem.read x = s.mem.read x := by
  rw [completeStep_mem, Memory.read_write_other _ _ hx]

theorem completeStep_isLoadError (c0 : Address) (j : Bool) {s : State} (hs : s.runState.isLoadError = false) :
    (completeStep c0 j s).runState.isLoadError = false := by
  rw [completeStep_runState]
  split
  · rfl
  · exact hs

/-- An enabled state has a next one: the handler's, completed (42_step_cycle.md R110). -/
theorem step_of_enabled {s : State} (h : s.Enabled) :
    step s = .next (completeStep s.c (fetchInstr s == .jump) (handled (fetchInstr s) s)) := by
  obtain ⟨hrun, hfuel⟩ := h
  rw [← exec_eq, step, if_neg (not_not.2 hrun), if_neg hfuel.ne']

/-! ## What keeps the invariant -/

/-- The invariant passes to a state with the same tables and the same program, in so far as memory stays canonical and
STATE stays out of LoadError. -/
theorem State.Inv.transfer {s t : State} (h : s.Inv) (hparams : t.params = s.params)
    (himage : t.mem.image = s.mem.image) (hwf : t.mem.wf) (hrun : t.runState.isLoadError = false) : t.Inv := by
  obtain ⟨htables, -, hlength, hprintable, -⟩ := h
  exact ⟨hparams ▸ htables, hwf, himage ▸ hlength, himage ▸ hprintable, hrun⟩

theorem zeroFuelHalt_inv {s : State} (h : s.Inv) : (zeroFuelHalt s).Inv := by
  have ⟨_, hwf, _, _, hrun⟩ := h
  exact h.transfer (zeroFuelHalt_params s) (by rw [zeroFuelHalt_mem]) (by rwa [zeroFuelHalt_mem])
    (halt_isLoadError rfl hrun)

theorem handled_inv (i : Instr) {s : State} (h : s.Inv) : (handled i s).Inv := by
  have ⟨_, hwf, _, _, hrun⟩ := h
  exact h.transfer (handled_params i s) (handled_image i s) (handled_mem_wf i hwf) (handled_isLoadError i hrun)

theorem completeStep_inv (c0 : Address) (j : Bool) {s : State} (h : s.Inv) : (completeStep c0 j s).Inv := by
  have ⟨_, hwf, _, _, hrun⟩ := h
  refine h.transfer (completeStep_params c0 j s) ?_ ?_ (completeStep_isLoadError c0 j hrun)
  · rw [completeStep_mem, Memory.write_image]
  · rw [completeStep_mem]
    exact Memory.write_wf hwf _ _

/-! ## The obligations -/

/-- Settles O45: the zero-fuel check, the handler and the completion each keep the invariant. -/
theorem everyStepKeepsInvariant : Obligations.EveryStepKeepsInvariant := by
  intro s t hs hstep
  obtain ⟨-, -, rfl⟩ | ⟨-, rfl⟩ := step_cases hstep
  · exact zeroFuelHalt_inv hs
  · exact completeStep_inv _ _ (handled_inv _ hs)

/-- Settles O43: the completion rewrites the executed slot and spends the fuel under whatever table is given, and before
it the handler reaches no other slot than D's. -/
theorem stepLawsForEveryTable : Obligations.StepLawsForEveryTable := by
  intro P s hs
  have henabled : ({ s with params := P } : State).Enabled := hs
  refine ⟨_, step_of_enabled henabled, ?params, ?executed, ?fuel, ?otherSlots, ?codePointer⟩
  case params => rw [completeStep_params, handled_params]
  case executed =>
    rw [completeStep_read_same]
    exact rewriteWith_printable _ _
  case fuel =>
    rw [completeStep_fuel, handled_fuel]
    exact Nat.sub_add_cancel hs.2
  case otherSlots =>
    intro x hc hd
    rw [completeStep_read_of_ne _ _ hc]
    exact handled_read_of_ne _ hd
  case codePointer =>
    intro hjump
    have hfetch : fetchInstr { s with params := P } ≠ .jump := hjump
    rw [completeStep_c, beq_false_of_ne hfetch, handled_c hfetch]
    rfl

/-- Settles O37: the two branches of `halt`. -/
theorem haltWritesOnlyRunState : Obligations.HaltWritesOnlyRunState :=
  fun _ r => ⟨halt_of_running r, halt_of_not_running r⟩

/-- Settles O44: the default tables are well formed, and memory lists nothing over the empty program. -/
theorem invariantHoldsAtReset : Obligations.InvariantHoldsAtReset :=
  ⟨params_default_wf, reset_mem_wf, Nat.zero_le _, rfl, rfl⟩

end Sys2Proof.Machine
end

section
/-! PROOFS for 10_state.md: what a program cannot learn of OUT and of IN (R32), the configuration that stays as load set
it (R31), and the invariant of every reachable state (R33). The facts about the host's operations come between. -/

namespace Sys2Proof.Machine

/-! ## IN and OUT across a step -/

/-- The bytes that the handler of `i` appends to OUT (45_io_system.md R150). -/
def emitted (i : Instr) (s : State) : List Byte :=
  match i with
  | .output => [outputByte s.a]
  | _ => []

theorem halt_withStreams (r : RunState) (s : State) (l o : List Byte) :
    halt r { s with input := l, output := o } = { halt r s with input := l, output := o } := by
  apply State.ext <;> simp

theorem completeStep_withStreams (c0 : Address) (j : Bool) (s : State) (l o : List Byte) :
    completeStep c0 j { s with input := l, output := o } =
      { completeStep c0 j s with input := l, output := o } := by
  apply State.ext <;> simp

/-- Input takes the next byte of IN and reaches no further, so bytes put after it stay; only on an empty IN would such
bytes be the next ones. -/
theorem takeInput_withStreams {s : State} {further : List Byte} (h : further = [] ∨ s.input ≠ []) (o : List Byte) :
    takeInput { s with input := s.input ++ further, output := o } =
      { takeInput s with input := (takeInput s).input ++ further, output := o } := by
  cases hin : s.input with
  | nil =>
    have hfurther : further = [] := h.resolve_right fun hne => hne hin
    subst hfurther
    rw [takeInput_nil hin, takeInput_nil (by rfl), halt_withStreams, halt_input, hin]
  | cons b rest =>
    rw [takeInput_cons hin, takeInput_cons (b := b) (rest := rest ++ further) (by rfl)]

/-- A handler keeps the bytes that stand further on in IN, and appends its own to whatever OUT holds. -/
theorem handled_withStreams (i : Instr) {s : State} {further : List Byte} (h : further = [] ∨ s.input ≠ [])
    (o : List Byte) :
    handled i { s with input := s.input ++ further, output := o } =
      { handled i s with input := (handled i s).input ++ further, output := o ++ emitted i s } := by
  cases i with
  | output => rfl
  | input => simpa [handled, emitted] using takeInput_withStreams h o
  | halt => simp [handled, emitted, halt_withStreams]
  | _ => simp [handled, emitted, storeResult, operand]

theorem handled_output (i : Instr) (s : State) : (handled i s).output = s.output ++ emitted i s := by
  have h := congrArg State.output (handled_withStreams i (s := s) (.inl rfl) s.output)
  simpa using h

theorem step_of_zero_fuel {s : State} (hrun : s.runState = .running) (hfuel : s.fuel = 0) :
    step s = .next (zeroFuelHalt s) := by
  rw [step, if_neg (not_not.2 hrun), if_pos hfuel]

/-- What a step depends on of IN and of OUT, said once (10_state.md R32): the next byte of IN and nothing of OUT. Bytes
further on in IN are still there afterwards, and the bytes emitted are the same ones after any OUT. -/
theorem step_withStreams {s t : State} {further : List Byte} (h : further = [] ∨ s.input ≠ [])
    (hstep : step s = .next t) :
    ∃ bytes : List Byte, t.output = s.output ++ bytes ∧ ∀ o : List Byte,
      step { s with input := s.input ++ further, output := o } =
        .next { t with input := t.input ++ further, output := o ++ bytes } := by
  obtain ⟨hrun, hfuel, rfl⟩ | ⟨henabled, rfl⟩ := step_cases hstep
  · refine ⟨[], by simp, fun o => ?_⟩
    rw [step_of_zero_fuel (s := { s with input := s.input ++ further, output := o }) hrun hfuel,
      zeroFuelHalt, halt_withStreams, zeroFuelHalt, halt_input, List.append_nil]
  · refine ⟨emitted (fetchInstr s) s, by rw [completeStep_output, handled_output], fun o => ?_⟩
    have hfetch : fetchInstr { s with input := s.input ++ further, output := o } = fetchInstr s := rfl
    rw [step_of_enabled (s := { s with input := s.input ++ further, output := o }) henabled,
      hfetch, handled_withStreams _ h, completeStep_withStreams, completeStep_input]

/-- Settles O47: the case of `step_withStreams` that leaves IN as it is. -/
theorem outputIsWriteOnly : Obligations.OutputIsWriteOnly := by
  intro s t hstep
  simpa using step_withStreams (further := []) (.inl rfl) hstep

/-- Settles O48: the case of `step_withStreams` that leaves OUT as it is. -/
theorem inputHasNoLookahead : Obligations.InputHasNoLookahead := by
  intro s t further hin hstep
  obtain ⟨bytes, hout, hnext⟩ := step_withStreams (.inr hin) hstep
  rw [hnext s.output, ← hout]

/-- OUT only grows: a step keeps what was emitted, at the front (45_io_system.md R150). -/
theorem step_output_prefix {s t : State} (hstep : step s = .next t) : s.output <+: t.output := by
  obtain ⟨bytes, hout, -⟩ := outputIsWriteOnly s t hstep
  exact ⟨bytes, hout.symm⟩

/-! ## Load -/

theorem firstBadByte_eq_none_iff (text : List Byte) :
    firstBadByte text = none ↔ ∀ b ∈ text, printable b = true := by
  induction text with
  | nil => simp [firstBadByte]
  | cons b rest ih =>
    unfold firstBadByte
    split
    · next hb => simp [ih, hb]
    · next hb => simp [hb]

theorem validate_eq_none_iff (text : List Byte) :
    validate text = none ↔ text.length ≠ 0 ∧ text.length ≤ 59049 ∧ ∀ b ∈ text, printable b = true := by
  unfold validate
  split
  · next hempty => simp [hempty]
  · next hempty =>
    split
    · next hlarge => simp [hlarge]
    · next hlarge => simp [hempty, not_lt.1 hlarge, firstBadByte_eq_none_iff]

/-- The machine that a successful load makes (70_reset_and_hazards.md R203). -/
def loadedState (P : Params) (text input : List Byte) : State where
  mem := Memory.ofImage (programImage text)
  c := 0
  d := 0
  a := 0
  fuel := 0
  runState := .running
  input := input
  output := []
  params := P

theorem load_eq_loaded_iff {P : Params} {text input : List Byte} {s : State} :
    load P text input = .loaded s ↔ validate text = none ∧ s = loadedState P text input := by
  unfold load
  split
  · next kind hkind => simp [hkind]
  · next hnone => simp [hnone, loadedState, eq_comm]

theorem load_params {P : Params} {text input : List Byte} {s : State} (h : load P text input = .loaded s) :
    s.params = P := by
  obtain ⟨-, rfl⟩ := load_eq_loaded_iff.1 h
  rfl

/-- Every word of the image of a printable text is printable: `zext` keeps the value (70_reset_and_hazards.md R204). -/
theorem programImage_printable {text : List Byte} (h : ∀ b ∈ text, printable b = true) :
    ((programImage text).all fun w => decide (33 ≤ w.val ∧ w.val ≤ 126)) = true := by
  rw [programImage, List.all_map, List.all_eq_true]
  exact h

theorem load_inv {P : Params} {text input : List Byte} {s : State} (hP : P.wf)
    (h : load P text input = .loaded s) : s.Inv := by
  obtain ⟨hvalid, rfl⟩ := load_eq_loaded_iff.1 h
  obtain ⟨-, hlength, hprintable⟩ := (validate_eq_none_iff text).1 hvalid
  have himage : (programImage text).length ≤ 59049 := by rwa [programImage, List.length_map]
  exact ⟨hP, Memory.ofImage_wf _, himage, programImage_printable hprintable, rfl⟩

/-! ## Budgets, cuts and runs -/

theorem lowerFuel_eq_some_iff {n : Nat} {s t : State} :
    lowerFuel n s = some t ↔ s.runState = .running ∧ n < s.fuel ∧ t = { s with fuel := n } := by
  unfold lowerFuel
  split
  · next h => simp [h, eq_comm]
  · next h => simp only [reduceCtorEq, false_iff]; exact fun ⟨hrun, hlt, _⟩ => h ⟨hrun, hlt⟩

/-- The invariant says nothing of FUEL. -/
theorem State.Inv.withFuel {s : State} (h : s.Inv) (n : Nat) : ({ s with fuel := n } : State).Inv := h

theorem writeBudget_inv (n : Nat) {s : State} (h : s.Inv) : (writeBudget n s).Inv := by
  unfold writeBudget
  split
  · exact h.withFuel n
  · exact h

theorem lowerFuel_inv {n : Nat} {s t : State} (h : s.Inv) (hcut : lowerFuel n s = some t) : t.Inv := by
  obtain ⟨-, -, rfl⟩ := lowerFuel_eq_some_iff.1 hcut
  exact h.withFuel n

@[simp] theorem writeBudget_params (n : Nat) (s : State) : (writeBudget n s).params = s.params := by
  unfold writeBudget; split <;> rfl

@[simp] theorem applyCut_params (cut : Option Nat) (s : State) : (applyCut cut s).params = s.params := by
  cases cut with
  | none => rfl
  | some n => simp only [applyCut, lowerFuel]; split <;> rfl

/-- Every step of a run, and every cut before one, keeps the configuration. -/
theorem runUnder_params (k : Nat) (cuts : List (Option Nat)) (s : State) :
    (runUnder k cuts s).params = s.params := by
  induction k generalizing cuts s with
  | zero => rfl
  | succ k ih =>
    unfold runUnder
    split
    · next t hstep => rw [ih, step_params hstep, applyCut_params]
    · rfl
    · rfl

/-- Settles O57: load sets the tables, and neither a step nor the budget and the cuts of a run write them. -/
theorem configurationIsFixed : Obligations.ConfigurationIsFixed := by
  refine ⟨fun P text input s => load_params, fun s t => step_params, fun n cuts s => ?_⟩
  rw [runLoaded, runUnder_params, writeBudget_params]

/-! ## The reachable states -/

theorem reachable_inv {s : State} (h : Reachable s) : s.Inv := by
  induction h with
  | load hP hload => exact load_inv hP hload
  | budget n _ ih => exact writeBudget_inv n ih
  | step _ hstep ih => exact everyStepKeepsInvariant _ _ ih hstep
  | cancel n _ hcut ih => exact lowerFuel_inv ih hcut

/-- Settles O46, by induction on how the state was brought about. -/
theorem reachableStatesAreGood : Obligations.ReachableStatesAreGood :=
  fun _ hs => ⟨reachable_inv hs, fun _ => step_output_prefix⟩

end Sys2Proof.Machine
end

section
/-! PROOFS for 20_memory.md: how long a written word lasts (R42, R43), which slots a full step reads and writes (R55), and
which integers are an Address (R41). -/

namespace Sys2Proof.Machine

/-! ## Words that last -/

/-- Any writes at other addresses leave a slot as it is: R43's frame, write after write. -/
theorem Memory.read_writes_of_ne {x : Address} (later : List (Address × Tryte)) (m : Memory)
    (h : ∀ p ∈ later, p.1 ≠ x) : (later.foldl (fun acc p => acc.write p.1 p.2) m).read x = m.read x := by
  induction later generalizing m with
  | nil => rfl
  | cons p rest ih =>
    obtain ⟨hp, hrest⟩ := List.forall_mem_cons.1 h
    rw [List.foldl_cons, ih _ hrest, Memory.read_write_other _ _ hp.symm]

/-- Settles O11: the later writes leave the slot as the first write left it, and that one leaves every other slot. -/
theorem writtenWordLastsUntilOverwritten : Obligations.WrittenWordLastsUntilOverwritten := by
  intro m x v later hlater
  refine ⟨?_, fun y hy => Memory.read_write_other m v hy⟩
  rw [Memory.read_writes_of_ne later _ hlater, Memory.read_write_same]

/-! ## The accesses of a step -/

/-- The three forms that the accesses of a handler can have. -/
theorem handlerAccesses_cases (i : Instr) (d : Address) :
    handlerAccesses i d = [] ∨ handlerAccesses i d = [.read d] ∨ handlerAccesses i d = [.read d, .write d] := by
  cases i <;> simp [handlerAccesses]

theorem handlerAccesses_length_le (i : Instr) (d : Address) : (handlerAccesses i d).length ≤ 2 := by
  obtain h | h | h := handlerAccesses_cases i d <;> simp [h]

theorem addr_of_mem_handlerAccesses (i : Instr) (d : Address) : ∀ acc ∈ handlerAccesses i d, acc.addr = d := by
  obtain h | h | h := handlerAccesses_cases i d <;> simp [h, Access.addr]

@[simp] theorem stepAccesses_length (s : State) :
    (stepAccesses s).length = (handlerAccesses (fetchInstr s) s.d).length + 3 := by
  simp [stepAccesses]

theorem mem_stepAccesses {s : State} {acc : Access} :
    acc ∈ stepAccesses s ↔
      acc = .read s.c ∨ acc = .write s.c ∨ acc ∈ handlerAccesses (fetchInstr s) s.d := by
  simp only [stepAccesses, List.cons_append, List.mem_cons, List.mem_append, List.not_mem_nil, or_false]
  tauto

theorem addr_of_mem_stepAccesses {s : State} {acc : Access} (hacc : acc ∈ stepAccesses s) :
    acc.addr = s.c ∨ acc.addr = s.d := by
  obtain rfl | rfl | hhandler := mem_stepAccesses.1 hacc
  · exact .inl rfl
  · exact .inl rfl
  · exact .inr (addr_of_mem_handlerAccesses _ _ acc hhandler)

/-- The accesses listed for a handler are true to it: a slot that it does not list as written keeps its word. -/
theorem handled_read_of_not_written {i : Instr} {s : State} {x : Address}
    (hx : Access.write x ∉ handlerAccesses i s.d) : (handled i s).mem.read x = s.mem.read x := by
  obtain hmem | ⟨v, hi, hmem⟩ := handled_mem i s
  · rw [hmem]
  · have hlisted : Access.write s.d ∈ handlerAccesses i s.d := by
      obtain rfl | rfl := hi <;> simp [handlerAccesses]
    have hne : x ≠ s.d := fun e => hx (e ▸ hlisted)
    rw [hmem, Memory.read_write_other _ _ hne]

/-- Settles O14: the handler's accesses, none to two and all at D, stand between the fetch and the rewrite; the handler
and the rewrite store only where the list has a write. -/
theorem stepAccessesBoundItsStores : Obligations.StepAccessesBoundItsStores := by
  intro s hs
  have hlength := handlerAccesses_length_le (fetchInstr s) s.d
  refine ⟨?atLeast, ?atMost, rfl, ⟨_, rfl⟩, fun acc => addr_of_mem_stepAccesses, _, step_of_enabled hs, ?keeps⟩
  case atLeast => rw [stepAccesses_length]; omega
  case atMost => rw [stepAccesses_length]; omega
  case keeps =>
    intro x hx
    simp only [mem_stepAccesses, not_or] at hx
    obtain ⟨-, hrewrite, hhandler⟩ := hx
    have hne : x ≠ s.c := fun e => hrewrite (e ▸ rfl)
    rw [completeStep_read_of_ne _ _ hne, handled_read_of_not_written hhandler]

/-! ## Addresses -/

theorem mkAddress_of_in_range {n : Int} (h : 0 ≤ n ∧ n ≤ 59048) : mkAddress n = .ok ⟨n.toNat, by omega⟩ :=
  dif_pos h

theorem mkAddress_of_not_in_range {n : Int} (h : ¬(0 ≤ n ∧ n ≤ 59048)) : mkAddress n = .error .outOfRange :=
  dif_neg h

/-- Settles O13: in the range the Address is the integer, and out of it no Address is the integer. -/
theorem mkAddressAcceptsExactlyTheRange : Obligations.MkAddressAcceptsExactlyTheRange := by
  intro n
  by_cases h : 0 ≤ n ∧ n ≤ 59048
  · simp only [mkAddress_of_in_range h, Except.ok.injEq, Fin.ext_iff, reduceCtorEq, false_iff]
    exact ⟨fun x => by omega, by omega⟩
  · simp only [mkAddress_of_not_in_range h, reduceCtorEq, false_iff, true_iff]
    exact ⟨fun x => by omega, by omega⟩

end Sys2Proof.Machine
end

section
/-! PROOFS for 30_encoding.md: the key (R61, R69), decoding by key (R63), the placement of an opcode and the encoder
(R71), one word of each kind (R64), and which words memory comes to hold (R62). The facts about OPMAP come first. -/

namespace Sys2Proof

/-! ## The key -/

/-- R69: of a word and its address, the key depends on their sum modulo 94 alone. -/
theorem key_eq_key_iff (w w' : Tryte) (addr addr' : Address) :
    key w addr = key w' addr' ↔ (w.val + addr.val) % 94 = (w'.val + addr'.val) % 94 := by
  rw [Fin.ext_iff, key_val, key_val]
  omega

/-- At one address, equal keys mean the same residue class. -/
theorem key_eq_key_iff_mod (w w' : Tryte) (addr : Address) :
    key w addr = key w' addr ↔ w.val % 94 = w'.val % 94 := by
  rw [key_eq_key_iff]
  omega

theorem key_eq_iff_placeKey_mod (w : Tryte) (k : Key) (addr : Address) :
    key w addr = k ↔ w.val % 94 = (placeKey k addr).val % 94 := by
  rw [← key_eq_key_iff_mod w _ addr, key_placeKey]

/-- The printable range is as long as the modulus, so it has one word of each class. -/
theorem eq_of_printable_of_mod_eq {w p : Tryte} (hw : 33 ≤ w.val ∧ w.val ≤ 126) (hp : 33 ≤ p.val ∧ p.val ≤ 126)
    (h : w.val % 94 = p.val % 94) : w = p := by
  apply Fin.ext
  omega

/-- Settles O15: the model adds 61, which is -33 modulo 94. -/
theorem keyIsEuclideanRemainder : Obligations.KeyIsEuclideanRemainder := by
  intro w addr
  rw [key_val]
  omega

/-- Settles O17: the key is a function of the sum of word and address, modulo 94. -/
theorem decodingDependsOnPosition : Obligations.DecodingDependsOnPosition := by
  refine ⟨fun w addr next hnext => ?_, key_eq_key_iff, by decide, by decide⟩
  rw [key_val, key_val, hnext]
  omega

/-! ## OPMAP as a list of keys -/

/-- An opcode's key stands in the list at the opcode's ordinal; `Invalid`'s ordinal is past the end of the list. -/
theorem OpMap.keyOf_eq_getElem? (m : OpMap) (i : Instr) : m.keyOf i = m.keys[Machine.opcodeCode i]? := by
  cases i <;> rfl

theorem Machine.opcodeCode_injective : Function.Injective opcodeCode :=
  Function.LeftInverse.injective (g := Instr.ofNat) fun i => by cases i <;> rfl

theorem OpMap.mem_keys_of_keyOf {m : OpMap} {i : Instr} {k : Key} (h : m.keyOf i = some k) : k ∈ m.keys :=
  List.mem_of_getElem? (m.keyOf_eq_getElem? i ▸ h)

theorem OpMap.ne_invalid_of_keyOf {m : OpMap} {i : Instr} {k : Key} (h : m.keyOf i = some k) : i ≠ .invalid := by
  rintro rfl
  cases h

theorem OpMap.keyOf_eq_none_iff (m : OpMap) (i : Instr) : m.keyOf i = none ↔ i = .invalid := by
  cases i <;> simp [OpMap.keyOf]

/-- Eight distinct keys: no two opcodes share one (00_scope.md R8). -/
theorem OpMap.keyOf_inj {m : OpMap} (hm : m.wf) {i j : Instr} {k : Key} (hi : m.keyOf i = some k)
    (hj : m.keyOf j = some k) : i = j := by
  rw [OpMap.keyOf_eq_getElem?] at hi hj
  obtain ⟨hlt, -⟩ := List.getElem?_eq_some_iff.1 hi
  exact Machine.opcodeCode_injective ((List.getElem?_inj hlt hm).1 (hi.trans hj.symm))

/-! ## Decoding by key -/

/-- What decode can answer: an opcode whose key the word has, or `Invalid` for a key that is no opcode's. -/
theorem decodeWith_cases (m : OpMap) (w : Tryte) (addr : Address) :
    m.keyOf (decodeWith m w addr) = some (key w addr) ∨
      (decodeWith m w addr = .invalid ∧ key w addr ∉ m.keys) := by
  simp only [decodeWith]
  split_ifs <;> simp [OpMap.keyOf, OpMap.keys, *]

theorem decodeWith_eq_invalid_iff (m : OpMap) (w : Tryte) (addr : Address) :
    decodeWith m w addr = .invalid ↔ key w addr ∉ m.keys := by
  obtain hop | ⟨hinvalid, hkey⟩ := decodeWith_cases m w addr
  · exact iff_of_false (OpMap.ne_invalid_of_keyOf hop) (not_not.2 (OpMap.mem_keys_of_keyOf hop))
  · exact iff_of_true hinvalid hkey

theorem keyOf_decodeWith {m : OpMap} {w : Tryte} {addr : Address} (h : decodeWith m w addr ≠ .invalid) :
    m.keyOf (decodeWith m w addr) = some (key w addr) :=
  (decodeWith_cases m w addr).resolve_right fun hinvalid => h hinvalid.1

theorem decodeWith_eq_iff {m : OpMap} (hm : m.wf) {i : Instr} {k : Key} (hk : m.keyOf i = some k) (w : Tryte)
    (addr : Address) : decodeWith m w addr = i ↔ key w addr = k := by
  constructor
  · rintro rfl
    exact Option.some.inj ((keyOf_decodeWith (OpMap.ne_invalid_of_keyOf hk)).symm.trans hk)
  · rintro rfl
    have hne : decodeWith m w addr ≠ .invalid := fun h =>
      (decodeWith_eq_invalid_iff m w addr).1 h (OpMap.mem_keys_of_keyOf hk)
    exact OpMap.keyOf_inj hm (keyOf_decodeWith hne) hk

/-- Settles O16: an opcode by its key, `Invalid` by every other key. -/
theorem decodeIsByKey : Obligations.DecodeIsByKey :=
  fun m hm w addr => ⟨fun _ _ hk => decodeWith_eq_iff hm hk w addr, decodeWith_eq_invalid_iff m w addr⟩

/-- Settles O20: the decoder run on nine words. -/
theorem writtenOutWordsDecode : Obligations.WrittenOutWordsDecode := by
  unfold Obligations.WrittenOutWordsDecode
  decide

/-! ## Placement and encoding -/

theorem placeWith_eq_some_iff (m : OpMap) (i : Instr) (addr : Address) (p : Tryte) :
    placeWith m i addr = some p ↔ ∃ k, m.keyOf i = some k ∧ placeKey k addr = p :=
  Option.map_eq_some_iff

/-- Settles O18: to decode to the opcode is to have its key, which is to be in the class of `place`; the printable range
has one word of that class. -/
theorem placeIsTheOnlyPrintableWord : Obligations.PlaceIsTheOnlyPrintableWord := by
  intro m hm i addr p hp
  obtain ⟨k, hk, rfl⟩ := (placeWith_eq_some_iff m i addr p).1 hp
  have hclass (w : Tryte) : decodeWith m w addr = i ↔ w.val % 94 = (placeKey k addr).val % 94 := by
    rw [decodeWith_eq_iff hm hk, key_eq_iff_placeKey_mod]
  have hprintable := Laws.EncodePrintable.placeKey_printable k addr
  exact ⟨(hclass _).2 rfl, hprintable,
    fun w hlo hhi hw => eq_of_printable_of_mod_eq ⟨hlo, hhi⟩ hprintable ((hclass w).1 hw), hclass⟩

theorem encodeWith_of_keyOf {m : OpMap} {i : Instr} {k : Key} (hk : m.keyOf i = some k) (addr : Address) :
    encodeWith m i addr = placeKey k addr := by
  rw [encodeWith, hk, Option.getD_some]

theorem encodeWith_printable (m : OpMap) (i : Instr) (addr : Address) :
    33 ≤ (encodeWith m i addr).val ∧ (encodeWith m i addr).val ≤ 126 :=
  Laws.EncodePrintable.placeKey_printable _ addr

theorem key_encodeWith_invalid (m : OpMap) (addr : Address) :
    key (encodeWith m .invalid addr) addr = invalidKey m :=
  key_placeKey _ addr

theorem decodeWith_encodeWith {m : OpMap} (hm : m.wf) (i : Instr) (addr : Address) :
    decodeWith m (encodeWith m i addr) addr = i := by
  cases hk : m.keyOf i with
  | none =>
    obtain rfl := (m.keyOf_eq_none_iff i).1 hk
    rw [decodeWith_eq_invalid_iff, key_encodeWith_invalid]
    exact invalidKey_notMem m
  | some k => rw [decodeWith_eq_iff hm hk, encodeWith_of_keyOf hk, key_placeKey]

/-- A word that decodes to an opcode is in the class of that opcode's encoding (log 27). -/
theorem mod_eq_encodeWith_decodeWith {m : OpMap} {w : Tryte} {addr : Address} (h : decodeWith m w addr ≠ .invalid) :
    w.val % 94 = (encodeWith m (decodeWith m w addr) addr).val % 94 := by
  rw [encodeWith_of_keyOf (keyOf_decodeWith h), ← key_eq_iff_placeKey_mod]

/-- Settles O19: decode undoes encode because the encoding has the instruction's key; encode undoes decode on printable
words because the class of a word has one printable word. -/
theorem decodeOfEncodeIsIdentity : Obligations.DecodeOfEncodeIsIdentity := by
  intro m hm addr
  have hdecode (i : Instr) : decodeWith m (encodeWith m i addr) addr = i := decodeWith_encodeWith hm i addr
  refine ⟨fun i _ => hdecode i, fun w hlo hhi h => ?_, fun w => mod_eq_encodeWith_decodeWith,
    Function.LeftInverse.injective (g := fun w => decodeWith m w addr) hdecode⟩
  exact eq_of_printable_of_mod_eq (encodeWith_printable _ _ _) ⟨hlo, hhi⟩ (mod_eq_encodeWith_decodeWith h).symm

end Sys2Proof

namespace Sys2Proof.Machine

/-! ## Words outside the printable range -/

/-- Rotate and Crazy leave the same kind of state: one word, stored in A and at D (44_alu_memory_ops.md R142). -/
theorem handled_of_store {i : Instr} (hi : i = .rotate ∨ i = .crazy) (s : State) :
    ∃ v, handled i s = storeResult v s := by
  obtain rfl | rfl := hi <;> exact ⟨_, rfl⟩

/-- A slot whose word a handler changes is the one D names, and A holds its new word. -/
theorem handled_of_read_ne {i : Instr} {s : State} {x : Address}
    (h : (handled i s).mem.read x ≠ s.mem.read x) :
    x = s.d ∧ (i = .rotate ∨ i = .crazy) ∧ (handled i s).a = (handled i s).mem.read x := by
  obtain rfl : x = s.d := by_contra fun hne => h (handled_read_of_ne i hne)
  obtain hmem | ⟨_, hi, -⟩ := handled_mem i s
  · exact absurd (by rw [hmem]) h
  · obtain ⟨v, hv⟩ := handled_of_store hi s
    exact ⟨rfl, hi, by rw [hv, storeResult_a, storeResult_mem, Memory.read_write_same]⟩

/-- Settles O41: the zero-fuel check writes no slot and the executed slot ends printable, so the handler stored the
word. -/
theorem onlyStoresMakeUnprintableWords : Obligations.OnlyStoresMakeUnprintableWords := by
  intro s t x hstep hbefore hafter
  obtain ⟨-, -, rfl⟩ | ⟨-, rfl⟩ := step_cases hstep
  · rw [zeroFuelHalt_mem] at hafter
    exact absurd hbefore hafter
  · have hne : x ≠ s.c := by
      rintro rfl
      rw [completeStep_read_same] at hafter
      exact hafter (rewriteWith_printable _ _)
    rw [completeStep_read_of_ne _ _ hne] at hafter ⊢
    have hchanged : (handled (fetchInstr s) s).mem.read x ≠ s.mem.read x := fun h => hafter (h ▸ hbefore)
    obtain ⟨hd, hstore, ha⟩ := handled_of_read_ne hchanged
    exact ⟨hd, hne, hstore, by rw [completeStep_a, ha]⟩

end Sys2Proof.Machine
end

section
/-! PROOFS for 40_ternary_alu.md: the ten trits of a word and their weighted sum (R81 to R83), the crazy operation (R84
to R86), the rotation (R87 to R89) and the two wrapping operations (R90 to R92). A word is a ten-digit number in base 3,
so that the first part rests on Mathlib's `finFunctionFinEquiv`; the others go through the trit at each position. -/

namespace Sys2Proof.Machine

/-! ## The trits of a word -/

/-- `decompose` lists the trits by position (40_ternary_alu.md R81). -/
@[simp] theorem get_decompose (x : Tryte) (i : Fin 10) : (decompose x).get i = trit i x := by
  fin_cases i <;> rfl

/-- Trits with the same trit at every position are the same. -/
theorem trits_ext {t u : Trits} (h : ∀ i : Fin 10, t.get i = u.get i) : t = u :=
  Vector.ext fun i hi => h ⟨i, hi⟩

/-- Settles O1: the trit at position i is `trit i` of the word. -/
theorem decomposeGivesBaseThreeDigits : Obligations.DecomposeGivesBaseThreeDigits := by
  intro x i
  rw [get_decompose, trit_val]

/-- Settles O2: the ten terms of the sum, written out. -/
theorem composeIsWeightedSum : Obligations.ComposeIsWeightedSum := by
  intro t
  simp [compose, Vector.get, Fin.sum_univ_succ, mul_comm, add_assoc]

theorem compose_val_eq_finFunctionFinEquiv (t : Trits) :
    (compose t).val = (finFunctionFinEquiv t.get).val := by
  rw [composeIsWeightedSum, finFunctionFinEquiv_apply]

theorem trit_eq_finFunctionFinEquiv_symm (x : Tryte) (i : Fin 10) :
    trit i x = finFunctionFinEquiv.symm (x.cast (by decide)) i := rfl

theorem decompose_compose (t : Trits) : decompose (compose t) = t := by
  have hword : (compose t).cast (by decide) = finFunctionFinEquiv t.get :=
    Fin.ext (compose_val_eq_finFunctionFinEquiv t)
  refine trits_ext fun i => ?_
  rw [get_decompose, trit_eq_finFunctionFinEquiv_symm, hword, Equiv.symm_apply_apply]

theorem compose_decompose (x : Tryte) : compose (decompose x) = x := by
  have htrits : (decompose x).get = finFunctionFinEquiv.symm (x.cast (by decide)) :=
    funext fun i => (get_decompose x i).trans (trit_eq_finFunctionFinEquiv_symm x i)
  apply Fin.ext
  rw [compose_val_eq_finFunctionFinEquiv, htrits, Equiv.apply_symm_apply, Fin.val_cast]

/-- Settles O3: to compose is to number the trits, and `finFunctionFinEquiv` numbers them one to one. -/
theorem composeDecomposeAreInverse : Obligations.ComposeDecomposeAreInverse :=
  ⟨compose_decompose, decompose_compose⟩

/-- Words with the same trit at every position are the same. -/
theorem tryte_ext {x y : Tryte} (h : ∀ i : Fin 10, trit i x = trit i y) : x = y := by
  have htrits : decompose x = decompose y := trits_ext fun i => by simpa using h i
  rw [← compose_decompose x, htrits, compose_decompose]

@[simp] theorem trit_compose (t : Trits) (i : Fin 10) : trit i (compose t) = t.get i := by
  rw [← get_decompose, decompose_compose]

/-! ## The crazy operation -/

/-- Settles O4: the table, read at its nine entries. -/
theorem crazyTritTableAsPrinted : Obligations.CrazyTritTableAsPrinted := by
  unfold Obligations.CrazyTritTableAsPrinted
  decide

/-- Settles O5: over three trits each clause is a finite check on the table. -/
theorem crazyTritIsIrregular : Obligations.CrazyTritIsIrregular := by
  unfold Obligations.CrazyTritIsIrregular
  decide

theorem trit_crazy (a b : Tryte) (i : Fin 10) : trit i (crazy a b) = crazyTrit (trit i a) (trit i b) := by
  rw [crazy, trit_compose]
  fin_cases i <;> rfl

/-- Settles O6: `trit_crazy`, on the decomposed words. -/
theorem crazyActsTritwise : Obligations.CrazyActsTritwise := by
  intro a b i
  simp only [get_decompose, trit_crazy]

/-! ## The rotation -/

/-- Position 0 gets the trit of position 9 = 0 - 1 (modulo 10), and every other position that of the one below. -/
theorem trit_rotateRight (x : Tryte) (i : Fin 10) : trit i (rotateRight x) = trit (i - 1 : Fin 10) x := by
  rw [rotateRight, trit_compose]
  fin_cases i <;> rfl

theorem trit_iterate_rotateRight (n : Nat) (x : Tryte) (i : Fin 10) :
    trit i (rotateRight^[n] x) = trit (i - n • 1 : Fin 10) x := by
  induction n generalizing x with
  | zero => rw [zero_nsmul, sub_zero, Function.iterate_zero_apply]
  | succ n ih => rw [Function.iterate_succ_apply, ih, trit_rotateRight, succ_nsmul, sub_sub]

/-- Ten rotations bring every trit back to its position. -/
theorem iterate_rotateRight_ten (x : Tryte) : rotateRight^[10] x = x := by
  have hturn : (10 • 1 : Fin 10) = 0 := by decide
  refine tryte_ext fun i => ?_
  rw [trit_iterate_rotateRight, hturn, sub_zero]

/-- Nine rotations and one more are the ten that change nothing, in either order. -/
theorem rotateRight_bijective : Function.Bijective rotateRight :=
  Function.bijective_iff_has_inverse.2 ⟨rotateRight^[9],
    fun x => (Function.iterate_succ_apply rotateRight 9 x).symm.trans (iterate_rotateRight_ten x),
    fun x => (Function.iterate_succ_apply' rotateRight 9 x).symm.trans (iterate_rotateRight_ten x)⟩

/-- On the number, the rotation is a multiplication by 3 that carries the top trit round (40_ternary_alu.md R88). -/
theorem rotateRight_val (x : Tryte) : (rotateRight x).val = 3 * (x.val % 19683) + x.val / 19683 := by
  simp only [rotateRight, compose, trit_val, Vector.getElem_mk, List.getElem_toArray, List.getElem_cons_zero,
    List.getElem_cons_succ]
  omega

/-- Nine rotations are the inverse of one: on the number, a division by 3 that carries the bottom trit round
(40_ternary_alu.md R89). -/
theorem iterate_rotateRight_nine_val (x : Tryte) :
    (rotateRight^[9] x).val = x.val / 3 + 19683 * (x.val % 3) := by
  have hback : rotateRight (rotateRight^[9] x) = x := by
    rw [← Function.iterate_succ_apply' rotateRight, iterate_rotateRight_ten]
  have hval := congrArg Fin.val hback
  rw [rotateRight_val] at hval
  omega

/-- As a list, the trits are rotated: the nine lower ones pass behind the top one. -/
theorem decompose_rotateRight_toList (x : Tryte) :
    (decompose (rotateRight x)).toList = (decompose x).toList.rotate 9 := by
  rw [rotateRight, decompose_compose]
  rfl

theorem count_decompose_rotateRight (x : Tryte) (t : Trit) :
    (decompose (rotateRight x)).toList.count t = (decompose x).toList.count t := by
  rw [decompose_rotateRight_toList, (List.rotate_perm _ 9).count_eq]

/-- Settles O7: the trits by `trit_rotateRight`, the number by `rotateRight_val`. -/
theorem rotateRightMovesTritsUp : Obligations.RotateRightMovesTritsUp := by
  intro x
  refine ⟨?_, fun i => ?_, rotateRight_val x⟩
  · rw [get_decompose, get_decompose, trit_rotateRight]
    rfl
  · have hbelow : i.succ - 1 = i.castSucc := sub_eq_of_eq_add Fin.coeSucc_eq_succ.symm
    rw [get_decompose, get_decompose, trit_rotateRight, hbelow]

/-- Settles O8: ten rotations are a full turn, from which the bijection and its inverse follow; the counts are those of
a rotated list. -/
theorem rotateRightLaws : Obligations.RotateRightLaws :=
  ⟨iterate_rotateRight_ten, rotateRight_bijective, iterate_rotateRight_nine_val, count_decompose_rotateRight⟩

/-! ## The wrapping operations -/

/-- Settles O9: `addWrap` is defined by this sum. -/
theorem addWrapIsModular : Obligations.AddWrapIsModular :=
  ⟨addWrap_val, by decide⟩

/-- Settles O10: the model adds 59049 before it subtracts, which the remainder does not see. -/
theorem subWrapUndoesAddWrap : Obligations.SubWrapUndoesAddWrap := by
  intro a b
  simp only [Fin.ext_iff, addWrap_val, subWrap_val]
  omega

end Sys2Proof.Machine
end

section
/-! PROOFS for 41_self_modification.md: the rewrite as a table look-up (R101), its range and its bijection on the
printable words (R104), and the cycles of the default table (R106). Biased by 33, the keys are the printable words, and
the rewrite acts on them as the table acts on the keys: `semiconj_rebias`, from which R104 and R106 follow. -/

namespace Sys2Proof.Machine

/-! ## The table look-up -/

theorem rewriteIndex_val (w : Tryte) : (rewriteIndex w).val = (w.val + 61) % 94 := rfl

theorem rewriteWith_val (p : Perm94) (w : Tryte) : (rewriteWith p w).val = (p.get (rewriteIndex w)).val + 33 := rfl

/-- Settles O21: the model adds 61, which is -33 modulo 94. -/
theorem rewriteLooksUpTheTable : Obligations.RewriteLooksUpTheTable := by
  intro p w k hk
  have hindex : rewriteIndex w = k := by
    apply Fin.ext
    rw [rewriteIndex_val]
    omega
  rw [rewriteWith_val, hindex]

/-! ## Keys and printable words -/

/-- The printable word of a rewrite index, the index biased by 33 (41_self_modification.md R100). -/
def rebias (k : Key) : Tryte := ⟨k.val + 33, by omega⟩

theorem rebias_val (k : Key) : (rebias k).val = k.val + 33 := rfl

theorem rewriteWith_eq_rebias (p : Perm94) (w : Tryte) : rewriteWith p w = rebias (p.get (rewriteIndex w)) := rfl

theorem rewriteIndex_rebias (k : Key) : rewriteIndex (rebias k) = k := by
  apply Fin.ext
  rw [rewriteIndex_val, rebias_val]
  omega

theorem rebias_injective : Function.Injective rebias :=
  Function.LeftInverse.injective rewriteIndex_rebias

theorem rebias_rewriteIndex {w : Tryte} (hw : 33 ≤ w.val ∧ w.val ≤ 126) : rebias (rewriteIndex w) = w := by
  apply Fin.ext
  rw [rebias_val, rewriteIndex_val]
  omega

theorem range_rebias : Set.range rebias = {w : Tryte | 33 ≤ w.val ∧ w.val ≤ 126} := by
  ext w
  constructor
  · rintro ⟨k, rfl⟩
    have hval := rebias_val k
    exact ⟨by omega, by omega⟩
  · exact fun hw => ⟨rewriteIndex w, rebias_rewriteIndex hw⟩

/-- On the printable words the rewrite is the table, seen through `rebias`. -/
theorem semiconj_rebias (p : Perm94) : Function.Semiconj rebias p.get (rewriteWith p) := by
  intro k
  rw [rewriteWith_eq_rebias, rewriteIndex_rebias]

/-! ## The period -/

theorem rewriteIndex_eq_of_val_eq_add {w w' : Tryte} (h : w'.val = w.val + 94) : rewriteIndex w' = rewriteIndex w := by
  apply Fin.ext
  rw [rewriteIndex_val, rewriteIndex_val]
  omega

theorem rewriteWith_eq_of_val_eq_add (p : Perm94) {w w' : Tryte} (h : w'.val = w.val + 94) :
    rewriteWith p w' = rewriteWith p w := by
  rw [rewriteWith_eq_rebias, rewriteIndex_eq_of_val_eq_add h, rewriteWith_eq_rebias]

/-- The words 0 and 94 are rewritten alike. -/
theorem not_injective_rewriteWith (p : Perm94) : ¬ Function.Injective (rewriteWith p) := by
  intro hinj
  have hsame : rewriteWith p 94 = rewriteWith p 0 := rewriteWith_eq_of_val_eq_add p (by decide)
  exact absurd (hinj hsame) (by decide)

/-! ## The bijection -/

/-- A table without repetition is a bijection on the keys (00_scope.md R9). -/
theorem get_bijective_of_wf {p : Perm94} (hp : p.wf) : Function.Bijective p.get := by
  refine Finite.injective_iff_bijective.1 fun i j hij => Fin.ext ?_
  exact (List.Nodup.getElem_inj_iff hp (hi := by simp) (hj := by simp)).1 hij

theorem rewriteWith_bijOn {p : Perm94} (hp : p.wf) :
    Set.BijOn (rewriteWith p) {w | 33 ≤ w.val ∧ w.val ≤ 126} {w | 33 ≤ w.val ∧ w.val ≤ 126} := by
  rw [← range_rebias]
  exact (semiconj_rebias p).bijOn_range (get_bijective_of_wf hp) rebias_injective

theorem selfModify_read_same (c0 : Address) (s : State) :
    (selfModify c0 s).mem.read c0 = rewriteWith s.params.perm (s.mem.read c0) := by
  rw [selfModify_mem, Memory.read_write_same]

/-- Settles O22: the bijection is the table's, carried over to the printable words. -/
theorem rewriteRangeLaws : Obligations.RewriteRangeLaws := by
  refine ⟨fun p hp => ⟨rewriteWith_printable p, rewriteWith_bijOn hp, fun _ _ => rewriteWith_eq_of_val_eq_add p,
    not_injective_rewriteWith p⟩, fun c0 s => ?_⟩
  rw [selfModify_read_same]
  exact rewriteWith_printable _ _

/-! ## The cycles of the default table -/

/-- A point that comes back after `n` rounds, and whose first `n` iterates are distinct, comes back no earlier. -/
theorem minimalPeriod_eq_of_nodup_iterate {α : Type} {f : α → α} {x : α} {n : Nat} (hn : 0 < n)
    (hback : f^[n] x = x) (hdistinct : (List.iterate f x n).Nodup) : Function.minimalPeriod f x = n := by
  have hperiodic : Function.IsPeriodicPt f n x := hback
  refine (hperiodic.minimalPeriod_le hn).eq_of_not_lt fun hlt => (hperiodic.minimalPeriod_pos hn).ne' ?_
  refine (hdistinct.getElem_inj_iff (hi := by simpa using hlt) (hj := by simpa using hn)).1 ?_
  rw [List.getElem_iterate, List.getElem_iterate, Function.iterate_minimalPeriod, Function.iterate_zero_apply]

/-- The six cycles of the default PERM94 (41_self_modification.md R106): the least key of each, and its length. -/
def defaultCycles : List (Key × Nat) := [(0, 68), (17, 9), (4, 6), (8, 5), (9, 4), (37, 2)]

theorem defaultCycles_close :
    ∀ c ∈ defaultCycles, 0 < c.2 ∧ perm94.get^[c.2] c.1 = c.1 ∧ (List.iterate perm94.get c.1 c.2).Nodup := by
  decide +kernel

theorem defaultCycles_cover : ∀ k : Key, ∃ c ∈ defaultCycles, k ∈ List.iterate perm94.get c.1 c.2 := by
  decide +kernel

/-- Each key has the period of the cycle that it is on. -/
theorem minimalPeriod_perm94_mem (k : Key) : Function.minimalPeriod perm94.get k ∈ [68, 9, 6, 5, 4, 2] := by
  obtain ⟨c, hc, hk⟩ := defaultCycles_cover k
  obtain ⟨hpos, hback, hdistinct⟩ := defaultCycles_close c hc
  obtain ⟨m, -, rfl⟩ := List.mem_iterate.1 hk
  rw [Function.minimalPeriod_apply_iterate (Function.mk_mem_periodicPts hpos hback),
    minimalPeriod_eq_of_nodup_iterate hpos hback hdistinct]
  exact List.mem_map_of_mem (f := Prod.snd) hc

theorem minimalPeriod_rewriteWith_rebias (p : Perm94) (k : Key) :
    Function.minimalPeriod (rewriteWith p) (rebias k) = Function.minimalPeriod p.get k := by
  refine Function.minimalPeriod_eq_minimalPeriod_iff.2 fun n => ?_
  rw [Function.IsPeriodicPt, Function.IsFixedPt, ← (semiconj_rebias p).iterate_right n k, rebias_injective.eq_iff]
  rfl

theorem minimalPeriod_rewrite_mem {w : Tryte} (hw : 33 ≤ w.val ∧ w.val ≤ 126) :
    Function.minimalPeriod rewrite w ∈ [68, 9, 6, 5, 4, 2] := by
  obtain ⟨k, rfl⟩ : w ∈ Set.range rebias := range_rebias ▸ hw
  have hperiod : Function.minimalPeriod rewrite (rebias k) = Function.minimalPeriod perm94.get k :=
    minimalPeriod_rewriteWith_rebias perm94 k
  rw [hperiod]
  exact minimalPeriod_perm94_mem k

/-- Settles O23: a fixed word would be printable, as every rewrite is, and of period 1, which no cycle has. -/
theorem defaultRewriteHasNoFixedPoint : Obligations.DefaultRewriteHasNoFixedPoint := by
  refine ⟨fun w hfixed => ?_, fun w hlo hhi => ?_⟩
  · have hprintable : 33 ≤ w.val ∧ w.val ≤ 126 := hfixed ▸ rewriteWith_printable perm94 w
    have hperiod := minimalPeriod_rewrite_mem hprintable
    rw [Function.minimalPeriod_eq_one_iff_isFixedPt.2 hfixed] at hperiod
    exact absurd hperiod (by decide)
  · exact ⟨_, minimalPeriod_rewrite_mem ⟨hlo, hhi⟩, Function.iterate_minimalPeriod, fun j hpos hlt =>
      Function.not_isPeriodicPt_of_pos_of_lt_minimalPeriod hpos.ne' hlt⟩

end Sys2Proof.Machine
end

section
/-! PROOFS for 42_step_cycle.md: the three branches of a step (R111 to R113) and the pseudocode (R110), what a full step
spends (R118, R119) and changes (R126), cancellation (R122), and the run: it ends (R124), an ended one changes nothing
(R120), and a larger budget only prolongs it. The last rests on the step before its sub-step 5, `performed`. -/

namespace Sys2Proof.Machine

/-! ## The three branches of a step -/

theorem step_of_terminal {s : State} (h : s.runState ≠ .running) : step s = .fault (.runOver s.runState) := if_pos h

/-- Settles O34: the branch of `step` that executes. -/
theorem stepExecutesDecodedWord : Obligations.StepExecutesDecodedWord := by
  intro s hs
  rw [step_of_enabled hs, ← exec_eq]
  rfl

/-- Settles O35: the zero-fuel check is a `halt` of a Running machine. -/
theorem zeroFuelExecutesNothing : Obligations.ZeroFuelExecutesNothing := by
  intro s hrun hfuel
  rw [step_of_zero_fuel hrun hfuel, zeroFuelHalt, halt_of_running _ hrun]

/-- A Running machine has a next state, by the zero-fuel check or by an instruction. -/
theorem exists_step_of_running {s : State} (h : s.runState = .running) : ∃ t, step s = .next t := by
  obtain hfuel | hfuel := Nat.eq_zero_or_pos s.fuel
  · exact ⟨_, step_of_zero_fuel h hfuel⟩
  · exact ⟨_, step_of_enabled ⟨h, hfuel⟩⟩

/-- Settles O36: a terminal state has the fault, a Running one a next state. -/
theorem terminalStateHasNoStep : Obligations.TerminalStateHasNoStep := by
  refine fun s => ⟨step_of_terminal, fun hfault hrun => ?_⟩
  obtain ⟨t, ht⟩ := exists_step_of_running hrun
  rw [ht] at hfault
  cases hfault

/-- `halt` always leaves the machine in a terminal state. -/
theorem halt_runState_ne_running {r : RunState} (hr : r ≠ .running) (s : State) : (halt r s).runState ≠ .running := by
  rw [halt_runState]
  split
  · exact hr
  · assumption

/-! ## The pseudocode -/

/-- Sub-step 2 of the pseudocode is the machine's handler, with the mark of a Jump. -/
theorem referenceHandler_eq (i : Instr) (s : State) : referenceHandler i s = (handled i s, i == .jump) := by
  cases i with
  | input =>
    cases hin : s.input with
    | nil => simp [referenceHandler, handled, takeInput, hin]
    | cons b rest => simp [referenceHandler, handled, takeInput, hin]
  | _ => rfl

/-- Sub-steps 3 to 5 of the pseudocode are the machine's completion. -/
theorem referenceStep_of_enabled {s : State} (h : s.Enabled) :
    referenceStep s.params s =
      .next (completeStep s.c (fetchInstr s == .jump) (handled (fetchInstr s) s)) := by
  obtain ⟨hrun, hfuel⟩ := h
  have hfetch : decodeWith s.params.opmap (s.mem.read s.c) s.c = fetchInstr s := rfl
  simp only [referenceStep, if_pos hrun, if_neg hfuel.ne', hfetch, referenceHandler_eq]
  rw [← handled_params (fetchInstr s) s, completeStep, spendFuel, advance, selfModify]
  cases fetchInstr s == .jump <;> rfl

/-- Settles O42: each of the three branches of `step` is that of the pseudocode. -/
theorem stepIsThePseudocode : Obligations.StepIsThePseudocode := by
  intro s
  by_cases hrun : s.runState = .running
  · obtain hfuel | hfuel := Nat.eq_zero_or_pos s.fuel
    · rw [step_of_zero_fuel hrun hfuel, referenceStep, if_pos hrun, if_pos hfuel, zeroFuelHalt]
    · rw [step_of_enabled ⟨hrun, hfuel⟩, referenceStep_of_enabled ⟨hrun, hfuel⟩]
  · rw [step_of_terminal hrun, referenceStep, if_neg hrun]

/-! ## What a full step spends and changes -/

/-- A handler leaves STATE alone but for Halt and for Input on an empty IN. -/
theorem handled_runState {i : Instr} {s : State} (hhalt : i ≠ .halt) (hinput : i = .input → s.input ≠ []) :
    (handled i s).runState = s.runState := by
  cases i with
  | halt => exact absurd rfl hhalt
  | input =>
    obtain ⟨b, rest, hin⟩ := List.exists_cons_of_ne_nil (hinput rfl)
    rw [handled, takeInput_cons hin]
  | _ => rfl

/-- A handler leaves A alone but for Rotate, Crazy and a successful Input. -/
theorem handled_of_a_ne {i : Instr} {s : State} (h : (handled i s).a ≠ s.a) :
    i = .rotate ∨ i = .crazy ∨ (i = .input ∧ s.input ≠ []) := by
  cases i with
  | rotate => exact .inl rfl
  | crazy => exact .inr (.inl rfl)
  | input => exact .inr (.inr ⟨rfl, fun hin => h (by rw [handled, takeInput_nil hin, halt_a])⟩)
  | halt => exact absurd (halt_a _ s) h
  | _ => exact absurd rfl h

/-- A handler leaves IN alone but for a successful Input. -/
theorem handled_of_input_ne {i : Instr} {s : State} (h : (handled i s).input ≠ s.input) :
    i = .input ∧ s.input ≠ [] := by
  cases i with
  | input => exact ⟨rfl, fun hin => h (by rw [handled, takeInput_nil hin, halt_input])⟩
  | halt => exact absurd (halt_input _ s) h
  | _ => exact absurd rfl h

/-- A handler leaves OUT alone but for Output. -/
theorem handled_of_output_ne {i : Instr} {s : State} (h : (handled i s).output ≠ s.output) : i = .output := by
  cases i with
  | output => rfl
  | _ => exact absurd ((handled_output _ s).trans (List.append_nil _)) h

/-- The first terminal state of a step wins: the fuel does not overwrite the handler's (42_step_cycle.md R119). -/
theorem completeStep_runState_of_terminal (c0 : Address) (j : Bool) {s : State} (h : s.runState ≠ .running) :
    (completeStep c0 j s).runState = s.runState := by
  rw [completeStep_runState, if_neg fun hand => h hand.2]

/-- Settles O38: STATE is the handler's where the handler has ended the run, and else the fuel decides. -/
theorem fullStepSpendsOneFuel : Obligations.FullStepSpendsOneFuel := by
  intro s hs
  have ⟨hrun, hpos⟩ := hs
  refine ⟨_, step_of_enabled hs, ?spends, ?halts, ?exhausted, ?goesOn⟩
  case spends =>
    rw [completeStep_fuel, handled_fuel]
    exact Nat.sub_add_cancel hpos
  case halts =>
    intro hfetch
    have hended : (handled (fetchInstr s) s).runState = .haltedExplicit := by
      rw [hfetch, handled, halt_runState, if_pos hrun]
    rw [completeStep_runState_of_terminal _ _ (by simp [hended]), hended]
  case exhausted =>
    intro hfetch hin
    have hended : (handled (fetchInstr s) s).runState = .haltedInputExhausted := by
      rw [hfetch, handled, takeInput_nil hin, halt_runState, if_pos hrun]
    rw [completeStep_runState_of_terminal _ _ (by simp [hended]), hended]
  case goesOn =>
    intro hhalt hinput
    rw [completeStep_fuel, completeStep_runState, handled_runState hhalt hinput, hrun]
    exact ⟨fun h => if_pos ⟨h, rfl⟩, fun h => if_neg fun hand => h hand.1⟩

/-- Settles O39: the completion writes the executed slot and STATE at the end of FUEL; the rest is the handler's. -/
theorem stepChangesAtMost : Obligations.StepChangesAtMost := by
  intro s hs
  refine ⟨_, step_of_enabled hs, ?slots, ?accumulator, ?output, ?input, ?runState, ?image⟩
  case slots =>
    intro x hx hchanged
    rw [completeStep_read_of_ne _ _ hx] at hchanged
    obtain ⟨hd, hstore, -⟩ := handled_of_read_ne hchanged
    exact ⟨hd, hstore⟩
  case accumulator =>
    rw [completeStep_a]
    exact handled_of_a_ne
  case output =>
    rw [completeStep_output]
    exact handled_of_output_ne
  case input =>
    rw [completeStep_input]
    exact handled_of_input_ne
  case runState =>
    intro hchanged
    by_contra hnone
    push Not at hnone
    obtain ⟨hhalt, hinput, hfuel⟩ := hnone
    rw [completeStep_fuel] at hfuel
    rw [completeStep_runState, if_neg fun hand => hfuel hand.1] at hchanged
    exact hchanged (handled_runState hhalt hinput)
  case image => rw [completeStep_mem, Memory.write_image, handled_image]

/-! ## Cancellation -/

/-- Settles O56: the first clause is `lowerFuel`'s own law, and a machine with FUEL 0 takes the zero-fuel check. -/
theorem cancellationEndsRun : Obligations.CancellationEndsRun := by
  refine ⟨fun _ _ _ => lowerFuel_eq_some_iff, fun s t hcut => ?_⟩
  obtain ⟨hrun, -, rfl⟩ := lowerFuel_eq_some_iff.1 hcut
  exact zeroFuelExecutesNothing _ hrun rfl

theorem applyCut_of_terminal (cut : Option Nat) {s : State} (h : s.runState ≠ .running) : applyCut cut s = s := by
  cases cut with
  | none => rfl
  | some n => rw [applyCut, lowerFuel, if_neg fun hand => h hand.1, Option.getD_none]

@[simp] theorem applyCut_runState (cut : Option Nat) (s : State) : (applyCut cut s).runState = s.runState := by
  cases cut with
  | none => rfl
  | some n => simp only [applyCut, lowerFuel]; split <;> rfl

/-- A cut only lowers FUEL (42_step_cycle.md R122). -/
theorem applyCut_fuel_le (cut : Option Nat) (s : State) : (applyCut cut s).fuel ≤ s.fuel := by
  cases cut with
  | none => exact le_rfl
  | some n =>
    simp only [applyCut, lowerFuel]
    split
    · next h => exact h.2.le
    · exact le_rfl

/-! ## Every run ends -/

/-- The measure of a run: FUEL goes down by one, or it is spent and the step leaves Running (42_step_cycle.md R124). -/
theorem step_fuel {s t : State} (h : step s = .next t) :
    (0 < s.fuel ∧ t.fuel + 1 = s.fuel) ∨ (s.fuel = 0 ∧ t.runState ≠ .running) := by
  obtain ⟨-, hfuel, rfl⟩ | ⟨⟨-, hpos⟩, rfl⟩ := step_cases h
  · exact .inr ⟨hfuel, halt_runState_ne_running (by decide) s⟩
  · refine .inl ⟨hpos, ?_⟩
    rw [completeStep_fuel, handled_fuel]
    exact Nat.sub_add_cancel hpos

theorem core_run_of_terminal (k : Nat) {s : State} (h : s.runState ≠ .running) :
    Sys2Proof.core.run (k + 1) s = .fault (.runOver s.runState) := by
  rw [core_run_succ, step_of_terminal h]

theorem core_run_of_step (k : Nat) {s t : State} (h : step s = .next t) :
    Sys2Proof.core.run (k + 1) s = Sys2Proof.core.run k t := by
  rw [core_run_succ, h]

/-- The machine's own run finds itself over after at most FUEL full steps and one zero-fuel check. -/
theorem core_run_finds_run_over (s : State) :
    ∃ r, r ≠ .running ∧ Sys2Proof.core.run (s.fuel + 2) s = .fault (.runOver r) := by
  induction hn : s.fuel generalizing s with
  | zero =>
    by_cases hrun : s.runState = .running
    · obtain ⟨t, ht⟩ := exists_step_of_running hrun
      have ⟨_, hover⟩ := (step_fuel ht).resolve_left fun h => h.1.ne' hn
      exact ⟨_, hover, (core_run_of_step 1 ht).trans (core_run_of_terminal 0 hover)⟩
    · exact ⟨_, hrun, core_run_of_terminal _ hrun⟩
  | succ n ih =>
    by_cases hrun : s.runState = .running
    · obtain ⟨t, ht⟩ := exists_step_of_running hrun
      have hspent := step_fuel ht
      have hfuel : t.fuel = n := by omega
      obtain ⟨r, hr, hover⟩ := ih t hfuel
      exact ⟨r, hr, (core_run_of_step _ ht).trans hover⟩
    · exact ⟨_, hrun, core_run_of_terminal _ hrun⟩

theorem runUnder_of_terminal (k : Nat) (cuts : List (Option Nat)) {s : State} (h : s.runState ≠ .running) :
    runUnder k cuts s = s := by
  cases k with
  | zero => rfl
  | succ k => rw [runUnder, applyCut_of_terminal _ h, step_of_terminal h]

theorem runUnder_succ (k : Nat) (cuts : List (Option Nat)) {s t : State}
    (h : step (applyCut cuts.head?.join s) = .next t) : runUnder (k + 1) cuts s = runUnder k cuts.tail t := by
  rw [runUnder, h]

/-- More steps than FUEL are enough to end a run, whatever the cuts: the bound on FUEL is kept by each. -/
theorem runUnder_ends {k : Nat} (cuts : List (Option Nat)) {s : State} (h : s.fuel < k) :
    (runUnder k cuts s).runState ≠ .running := by
  induction k generalizing cuts s with
  | zero => omega
  | succ k ih =>
    by_cases hrun : s.runState = .running
    · have hcut := applyCut_fuel_le cuts.head?.join s
      obtain ⟨t, ht⟩ := exists_step_of_running ((applyCut_runState cuts.head?.join s).trans hrun)
      rw [runUnder_succ k cuts ht]
      obtain ⟨hpos, hspent⟩ | ⟨-, hover⟩ := step_fuel ht
      · exact ih cuts.tail (by omega)
      · rwa [runUnder_of_terminal k _ hover]
    · rwa [runUnder_of_terminal _ _ hrun]

theorem writeBudget_of_running (n : Nat) {s : State} (h : s.runState = .running) :
    writeBudget n s = { s with fuel := n } := if_pos h

theorem writeBudget_of_terminal (n : Nat) {s : State} (h : s.runState ≠ .running) : writeBudget n s = s := if_neg h

theorem runLoaded_of_terminal (n : Nat) (cuts : List (Option Nat)) {s : State} (h : s.runState ≠ .running) :
    runLoaded n cuts s = s := by
  rw [runLoaded, writeBudget_of_terminal n h, runUnder_of_terminal _ _ h]

theorem runLoaded_ends (n : Nat) (cuts : List (Option Nat)) (s : State) :
    (runLoaded n cuts s).runState ≠ .running := by
  by_cases hrun : s.runState = .running
  · rw [runLoaded, writeBudget_of_running n hrun]
    exact runUnder_ends cuts n.lt_succ_self
  · rwa [runLoaded_of_terminal n cuts hrun]

/-- Settles O53: the measure of a step bounds the machine's own run, and the host's run with its cuts. -/
theorem everyRunEnds : Obligations.EveryRunEnds :=
  ⟨fun _ _ => step_fuel, core_run_finds_run_over, runLoaded_ends⟩

/-! ## Run on an ended machine -/

theorem run_loaded_of_terminal (n : Nat) {s : State} (h : s.runState ≠ .running) :
    run n (.loaded s) = (.loaded s, .ran s.output s.runState) := by
  simp only [run, runVm, runLoaded_of_terminal n [] h, resultOf]

/-- Settles O55: a run leaves a failed load or a halted machine, and on either of them run is the identity. -/
theorem runOnEndedInstanceChangesNothing : Obligations.RunOnEndedInstanceChangesNothing := by
  refine ⟨fun _ _ => rfl, fun n _ => run_loaded_of_terminal n, fun n m vm => ?_⟩
  cases vm with
  | failed kind => rfl
  | loaded s => exact run_loaded_of_terminal m (runLoaded_ends n [] s)

/-! ## A larger budget -/

/-- The step up to its sub-step 4: one instruction, before any fuel is spent (42_step_cycle.md R113 to R117). -/
def performed (s : State) : State :=
  advance (fetchInstr s == .jump) (selfModify s.c (handled (fetchInstr s) s))

theorem step_eq_spendFuel_performed {s : State} (h : s.Enabled) : step s = .next (spendFuel (performed s)) :=
  step_of_enabled h

theorem halt_withFuel (r : RunState) (s : State) (n : Nat) :
    halt r { s with fuel := n } = { halt r s with fuel := n } := by
  apply State.ext <;> simp

theorem takeInput_withFuel (s : State) (n : Nat) : takeInput { s with fuel := n } = { takeInput s with fuel := n } := by
  simp only [takeInput]
  split
  · exact halt_withFuel _ s n
  · rfl

theorem handled_withFuel (i : Instr) (s : State) (n : Nat) :
    handled i { s with fuel := n } = { handled i s with fuel := n } := by
  cases i with
  | input => exact takeInput_withFuel s n
  | halt => exact halt_withFuel _ s n
  | _ => rfl

/-- No instruction reads FUEL (60_exceptions.md R183). -/
theorem performed_withFuel (s : State) (n : Nat) : performed { s with fuel := n } = { performed s with fuel := n } := by
  have hfetch : fetchInstr { s with fuel := n } = fetchInstr s := rfl
  simp only [performed, hfetch, handled_withFuel, advance, selfModify]

theorem output_prefix_performed (s : State) : s.output <+: (performed s).output := by
  rw [performed, advance_output, selfModify_output, handled_output]
  exact List.prefix_append _ _

/-- A run of at most `n` instructions from `s`, whatever FUEL it had. -/
def runWithin (n : Nat) (s : State) : State := runUnder (n + 1) [] { s with fuel := n }

theorem runLoaded_eq_runWithin (n : Nat) {s : State} (h : s.runState = .running) :
    runLoaded n [] s = runWithin n s := by
  rw [runLoaded, writeBudget_of_running n h, runWithin]

theorem runWithin_of_terminal (n : Nat) {s : State} (h : s.runState ≠ .running) :
    runWithin n s = { s with fuel := n } :=
  runUnder_of_terminal (n + 1) [] (s := { s with fuel := n }) h

theorem runWithin_zero (s : State) : runWithin 0 s = halt .haltedFuelExhausted { s with fuel := 0 } := by
  by_cases hrun : s.runState = .running
  · exact runUnder_succ 0 [] (step_of_zero_fuel hrun rfl)
  · rw [runWithin_of_terminal 0 hrun, halt_of_not_running _ (by exact hrun)]

/-- The step that spends the last unit of FUEL ends as the zero-fuel check after it would have (42_step_cycle.md R118,
R112). -/
theorem spendFuel_last (s : State) :
    spendFuel { s with fuel := 1 } = halt .haltedFuelExhausted { s with fuel := 0 } := if_pos rfl

theorem spendFuel_not_last (s : State) (n : Nat) :
    spendFuel { s with fuel := n + 2 } = { s with fuel := n + 1 } := if_neg n.succ_ne_zero

/-- A run within `n + 1` instructions is one instruction and a run within `n`. -/
theorem runWithin_succ (n : Nat) {s : State} (h : s.runState = .running) :
    runWithin (n + 1) s = runWithin n (performed s) := by
  have henabled : ({ s with fuel := n + 1 } : State).Enabled := ⟨h, n.succ_pos⟩
  have hstep := step_eq_spendFuel_performed henabled
  rw [performed_withFuel] at hstep
  rw [runWithin, runUnder_succ (n + 1) [] hstep, List.tail_nil]
  cases n with
  | zero =>
    have hover : (spendFuel { performed s with fuel := 1 }).runState ≠ .running :=
      halt_runState_ne_running (by decide) _
    rw [runUnder_of_terminal 1 [] hover, spendFuel_last, runWithin_zero]
  | succ n => rw [spendFuel_not_last, runWithin]

/-- Within any budget a run keeps what was emitted before it, at the front. -/
theorem output_prefix_runWithin (n : Nat) (s : State) : s.output <+: (runWithin n s).output := by
  induction n generalizing s with
  | zero => rw [runWithin_zero, halt_output]
  | succ n ih =>
    by_cases hrun : s.runState = .running
    · rw [runWithin_succ n hrun]
      exact (output_prefix_performed s).trans (ih (performed s))
    · rw [runWithin_of_terminal _ hrun]

/-- A run within a smaller number of instructions is the beginning of one within a larger number. -/
theorem runWithin_le {n m : Nat} (h : n ≤ m) (s : State) :
    (runWithin n s).output <+: (runWithin m s).output ∧
      ((runWithin n s).runState ≠ .haltedFuelExhausted →
        resultOf (runWithin m s) = resultOf (runWithin n s)) := by
  induction n generalizing m s with
  | zero =>
    by_cases hrun : s.runState = .running
    · rw [runWithin_zero, halt_output, halt_runState, if_pos hrun]
      exact ⟨output_prefix_runWithin m s, fun hself => absurd rfl hself⟩
    · rw [runWithin_of_terminal 0 hrun, runWithin_of_terminal m hrun]
      exact ⟨List.prefix_rfl, fun _ => rfl⟩
  | succ n ih =>
    by_cases hrun : s.runState = .running
    · obtain ⟨m, rfl⟩ := Nat.exists_eq_add_of_le' h
      rw [runWithin_succ n hrun, ← Nat.add_assoc, runWithin_succ (m + n) hrun]
      exact ih (Nat.le_add_left n m) (performed s)
    · rw [runWithin_of_terminal _ hrun, runWithin_of_terminal m hrun]
      exact ⟨List.prefix_rfl, fun _ => rfl⟩

/-- Settles O54: a Running machine's run from a budget is a run within it. -/
theorem largerBudgetExtendsRun : Obligations.LargerBudgetExtendsRun := by
  intro s n m hrun h
  rw [runLoaded_eq_runWithin n hrun, runLoaded_eq_runWithin m hrun]
  exact runWithin_le h s

end Sys2Proof.Machine
end

section
/-! PROOFS for 43_pointer_control.md: SetData (R130), Jump (R131), and where C and D go on every instruction (R132). The
facts about a word decoded by its key, about the completion and about a handler's D come first. -/

namespace Sys2Proof.Machine

/-! ## The step of a word with a known key -/

/-- The fetched word executes as the opcode whose key it has (30_encoding.md R63). -/
theorem step_of_key {s : State} (hs : s.Enabled) {i : Instr} {k : Key} (hk : s.params.opmap.keyOf i = some k)
    (hm : s.params.opmap.wf) (hkey : key (s.mem.read s.c) s.c = k) :
    step s = .next (completeStep s.c (i == .jump) (handled i s)) := by
  rw [stepExecutesDecodedWord s hs, (decodeWith_eq_iff hm hk _ _).2 hkey, exec_eq]

/-! ## The completion, slot by slot and at the end of FUEL -/

theorem completeStep_read (c0 : Address) (j : Bool) (s : State) (x : Address) :
    (completeStep c0 j s).mem.read x =
      if x = c0 then rewriteWith s.params.perm (s.mem.read c0) else s.mem.read x := by
  rw [completeStep_mem, Memory.read_write]

/-- Where the handler has not ended the run, the fuel alone decides STATE (42_step_cycle.md R118). -/
theorem completeStep_runState_of_enabled (c0 : Address) (j : Bool) {s : State} (hs : s.Enabled) :
    (completeStep c0 j s).runState = runStateAfter s.fuel := by
  obtain ⟨hrun, hpos⟩ := hs
  have hlast : s.fuel - 1 = 0 ↔ s.fuel = 1 := by omega
  simp only [completeStep_runState, runStateAfter, hrun, hlast, and_true]

/-- What is left of a step whose handler writes no more than the two pointers: all of SetData's and Jump's effect but
where C and D end. -/
theorem completeStep_of_pointers {s : State} (hs : s.Enabled) (c0 c d : Address) (j : Bool) :
    let t := completeStep c0 j { s with c := c, d := d }
    t.a = s.a ∧ t.input = s.input ∧ t.output = s.output ∧ t.params = s.params ∧ t.fuel = s.fuel - 1 ∧
      t.runState = runStateAfter s.fuel ∧
      ∀ x, t.mem.read x = if x = c0 then rewriteWith s.params.perm (s.mem.read c0) else s.mem.read x :=
  ⟨completeStep_a _ _ _, completeStep_input _ _ _, completeStep_output _ _ _, completeStep_params _ _ _,
    completeStep_fuel _ _ _, completeStep_runState_of_enabled (s := { s with c := c, d := d }) c0 j hs,
    completeStep_read _ _ _⟩

/-! ## The data pointer -/

@[simp] theorem takeInput_d (s : State) : (takeInput s).d = s.d := by
  unfold takeInput; split <;> simp

/-- A handler leaves D alone but for SetData. -/
theorem handled_d {i : Instr} (hi : i ≠ .setData) (s : State) : (handled i s).d = s.d := by
  cases i with
  | setData => exact absurd rfl hi
  | input => exact takeInput_d s
  | halt => exact halt_d _ s
  | _ => rfl

/-! ## The obligations -/

/-- Settles O40: the handler of Jump alone writes C and that of SetData alone writes D; the completion moves C on unless
the handler was Jump's, and D in every case. -/
theorem onlyJumpRedirects : Obligations.OnlyJumpRedirects := by
  intro s hs
  refine ⟨_, step_of_enabled hs, ?fallsThrough, ?jumps, ?advancesData, ?loadsData⟩
  case fallsThrough =>
    intro hfetch
    rw [completeStep_c, beq_false_of_ne hfetch, handled_c hfetch]
    exact addWrap_val s.c 1
  case jumps =>
    intro hfetch
    rw [completeStep_c, hfetch]
    rfl
  case advancesData =>
    intro hfetch
    rw [completeStep_d, handled_d hfetch]
    exact addWrap_val s.d 1
  case loadsData =>
    intro hfetch
    rw [completeStep_d, hfetch]
    exact addWrap_val (s.mem.read s.d) 1

/-- Settles O24: the handler writes the word that D named to D alone, and the completion moves both pointers on. -/
theorem setDataLoadsPointer : Obligations.SetDataLoadsPointer :=
  fun s hs => ⟨_, exec_eq .setData s, step_of_key hs rfl, completeStep_d _ _ _, completeStep_c _ _ _,
    completeStep_of_pointers hs s.c s.c (operand s) false⟩

/-- Settles O25: the handler writes the word that D named to C alone, and the completion keeps C there; the slot that it
rewrites is the one C named before. -/
theorem jumpRedirectsCodePointer : Obligations.JumpRedirectsCodePointer :=
  fun s hs => ⟨_, exec_eq .jump s, step_of_key hs rfl, completeStep_c _ _ _, completeStep_d _ _ _,
    completeStep_of_pointers hs s.c (operand s) s.d true⟩

end Sys2Proof.Machine
end

section
/-! PROOFS for 44_alu_memory_ops.md: Rotate (R140) and Crazy (R141). The two differ in the stored word alone (R142), so
what the completed step leaves is said once, for any stored word. -/

namespace Sys2Proof.Machine

/-! ## A store and the completion after it -/

theorem storeResult_enabled {s : State} (hs : s.Enabled) (v : Tryte) : (storeResult v s).Enabled := hs

/-- The store comes before the rewrite: where D names the executed slot, the stored word is the one rewritten
(41_self_modification.md R105). -/
theorem completeStep_storeResult_read (j : Bool) (v : Tryte) (s : State) (x : Address) :
    (completeStep s.c j (storeResult v s)).mem.read x =
      if x = s.c then rewriteWith s.params.perm (if s.c = s.d then v else s.mem.read s.c)
      else if x = s.d then v
      else s.mem.read x := by
  simp only [completeStep_read, storeResult_mem, storeResult_params, Memory.read_write]

/-- The whole effect of a step whose handler stores `v`. -/
theorem completeStep_of_store {s : State} (hs : s.Enabled) (v : Tryte) :
    let t := completeStep s.c false (storeResult v s)
    t.a = v ∧ t.c = addWrap s.c 1 ∧ t.d = addWrap s.d 1 ∧ t.input = s.input ∧ t.output = s.output ∧
      t.params = s.params ∧ t.fuel = s.fuel - 1 ∧ t.runState = runStateAfter s.fuel ∧
      ∀ x, t.mem.read x =
        if x = s.c then rewriteWith s.params.perm (if s.c = s.d then v else s.mem.read s.c)
        else if x = s.d then v
        else s.mem.read x :=
  ⟨completeStep_a _ _ _, completeStep_c _ _ _, completeStep_d _ _ _, completeStep_input _ _ _,
    completeStep_output _ _ _, completeStep_params _ _ _, completeStep_fuel _ _ _,
    completeStep_runState_of_enabled _ _ (storeResult_enabled hs v), completeStep_storeResult_read _ _ _⟩

/-! ## The obligations -/

/-- Settles O26: Rotate's handler is a store of the rotated operand. -/
theorem rotateStoresRotatedWord : Obligations.RotateStoresRotatedWord :=
  fun s hs => ⟨_, exec_eq .rotate s, step_of_key hs rfl, completeStep_of_store hs (rotateRight (operand s))⟩

/-- Settles O27: Crazy's handler is a store of the accumulator combined with the operand. -/
theorem crazyStoresCombinedWord : Obligations.CrazyStoresCombinedWord :=
  fun s hs => ⟨_, exec_eq .crazy s, step_of_key hs rfl, completeStep_of_store hs (crazy s.a (operand s))⟩

end Sys2Proof.Machine
end

section
/-! PROOFS for 45_io_system.md: Output (R150), Input (R151), Halt (R152), Nop (R153) and Invalid (R154). No handler of
the five touches MEM, C, D or FUEL: it writes A, IN and OUT at most, or it ends the run and writes STATE alone. What the
completed step leaves is said once for each of the two kinds. -/

namespace Sys2Proof.Machine

/-! ## The completion after a handler of the two kinds -/

/-- The whole effect of a step whose handler writes no more than A, IN and OUT. -/
theorem completeStep_of_io {s : State} (hs : s.Enabled) (a : Tryte) (input output : List Byte) :
    let t := completeStep s.c false { s with a := a, input := input, output := output }
    t.c = addWrap s.c 1 ∧ t.d = addWrap s.d 1 ∧ t.a = a ∧ t.input = input ∧ t.output = output ∧
      t.params = s.params ∧ t.fuel = s.fuel - 1 ∧ t.runState = runStateAfter s.fuel ∧
      ∀ x, t.mem.read x = if x = s.c then rewriteWith s.params.perm (s.mem.read s.c) else s.mem.read x :=
  ⟨completeStep_c _ _ _, completeStep_d _ _ _, completeStep_a _ _ _, completeStep_input _ _ _,
    completeStep_output _ _ _, completeStep_params _ _ _, completeStep_fuel _ _ _,
    completeStep_runState_of_enabled (s := { s with a := a, input := input, output := output }) _ _ hs,
    completeStep_read _ _ _⟩

/-- The handler's terminal state stands, whatever FUEL was left (42_step_cycle.md R119). -/
theorem completeStep_halt_runState {r : RunState} (hr : r ≠ .running) (c0 : Address) (j : Bool) {s : State}
    (hs : s.Enabled) : (completeStep c0 j (halt r s)).runState = r := by
  rw [completeStep_runState_of_terminal c0 j (halt_runState_ne_running hr s), halt_runState, if_pos hs.1]

/-- The whole effect of a step whose handler ends the run with `r`: the step still completes (42_step_cycle.md R117). -/
theorem completeStep_of_halt {s : State} (hs : s.Enabled) {r : RunState} (hr : r ≠ .running) :
    let t := completeStep s.c false (halt r s)
    t.runState = r ∧ t.a = s.a ∧ t.input = s.input ∧ t.output = s.output ∧
      t.c = addWrap s.c 1 ∧ t.d = addWrap s.d 1 ∧ t.params = s.params ∧ t.fuel = s.fuel - 1 ∧
      ∀ x, t.mem.read x = if x = s.c then rewriteWith s.params.perm (s.mem.read s.c) else s.mem.read x := by
  refine ⟨completeStep_halt_runState hr s.c false hs, ?_⟩
  simp [Memory.read_write]

/-! ## The step of a word with no key -/

/-- A word whose key is outside OPMAP executes as Invalid, under any OPMAP (30_encoding.md R63). -/
theorem step_of_key_notMem {s : State} (hs : s.Enabled) (hkey : key (s.mem.read s.c) s.c ∉ s.params.opmap.keys) :
    step s = .next (completeStep s.c false (handled .invalid s)) := by
  rw [stepExecutesDecodedWord s hs, (decodeWith_eq_invalid_iff _ _ _).2 hkey, exec_eq]
  rfl

/-! ## The obligations -/

/-- Settles O28: the handler appends one byte to OUT and writes nothing else. -/
theorem outputAppendsByte : Obligations.OutputAppendsByte := by
  intro s hs
  obtain ⟨hc, hd, ha, hinput, houtput, hrest⟩ := completeStep_of_io hs s.a s.input (s.output ++ [outputByte s.a])
  exact ⟨_, outputByte s.a, exec_eq .output s, step_of_key hs rfl, outputByte_val s.a, houtput, hc, hd, ha, hinput,
    hrest⟩

/-- Settles O29: on a non-empty IN the handler writes A and IN alone. -/
theorem inputConsumesFirstByte : Obligations.InputConsumesFirstByte := by
  intro s b rest hs hin
  have htake : handled .input s = { s with a := zext b, input := rest } := takeInput_cons hin
  refine ⟨_, exec_eq .input s, step_of_key hs rfl, ?_⟩
  obtain ⟨hc, hd, ha, hinput, houtput, hrest⟩ := completeStep_of_io hs (zext b) rest s.output
  rw [htake]
  exact ⟨(congrArg Fin.val ha).trans (zext_val b), hinput, hc, hd, houtput, hrest⟩

/-- Settles O30: on an empty IN the handler is a `halt`, and the completion follows it. -/
theorem inputExhaustedEndsRun : Obligations.InputExhaustedEndsRun := by
  intro s hs hin
  have htake : handled .input s = halt .haltedInputExhausted s := takeInput_nil hin
  refine ⟨_, exec_eq .input s, step_of_key hs rfl, ?_⟩
  obtain ⟨hrun, ha, hinput, houtput, hrest⟩ := completeStep_of_halt hs (r := .haltedInputExhausted) (by decide)
  rw [htake]
  exact ⟨hrun, ha, houtput, hinput.trans hin, hrest⟩

/-- Settles O31: the handler is a `halt`, and the completion follows it. -/
theorem haltEndsRunExplicitly : Obligations.HaltEndsRunExplicitly :=
  fun s hs => ⟨_, exec_eq .halt s, step_of_key hs rfl, completeStep_of_halt hs (by decide)⟩

/-- Settles O32: the handler writes nothing, so the step is its completion. -/
theorem nopOnlyAdvances : Obligations.NopOnlyAdvances :=
  fun s hs => ⟨_, exec_eq .nop s, step_of_key hs rfl, completeStep_of_io hs s.a s.input s.output⟩

/-- Settles O33: Invalid's handler is Nop's, and the rewrite makes any word printable. -/
theorem invalidActsAsNop : Obligations.InvalidActsAsNop := by
  intro s hs
  refine ⟨_, exec_eq .invalid s, exec_eq .nop s, step_of_key_notMem hs, ?printable,
    completeStep_of_io hs s.a s.input s.output⟩
  rw [completeStep_read_same]
  exact rewriteWith_printable _ _

end Sys2Proof.Machine
end

section
/-! PROOFS for 60_exceptions.md: no program can read FUEL (R183), and which error a failed load reports (R172). The second
goes through the three checks of `validate`, the last of which is a search of the text for its first bad byte. -/

namespace Sys2Proof.Machine

/-! ## FUEL across a step -/

theorem running_of_step {s t : State} (h : step s = .next t) : s.runState = .running := by
  obtain ⟨hrun, -, -⟩ | ⟨⟨hrun, -⟩, -⟩ := step_cases h
  · exact hrun
  · exact hrun

/-- Above the last unit of FUEL a step is the one instruction performed, which does not read FUEL, with one unit spent. -/
theorem step_withFuel {s : State} (h : s.runState = .running) {n : Nat} (hn : 2 ≤ n) :
    step { s with fuel := n } = .next { performed s with fuel := n - 1 } := by
  obtain ⟨k, rfl⟩ := Nat.exists_eq_add_of_le' hn
  have henabled : ({ s with fuel := k + 2 } : State).Enabled := ⟨h, Nat.succ_pos _⟩
  rw [step_eq_spendFuel_performed henabled, performed_withFuel, spendFuel_not_last]
  rfl

/-- Settles O49: a step above the last unit of FUEL is `step_withFuel`, from the one number and from the other. -/
theorem fuelIsInvisible : Obligations.FuelIsInvisible := by
  intro s t n hs hn hstep
  have hrun : s.runState = .running := running_of_step hstep
  have hown : step s = .next { performed s with fuel := s.fuel - 1 } := step_withFuel hrun hs
  cases hown.symm.trans hstep
  exact step_withFuel hrun hn

/-! ## The checks of load -/

theorem firstBadByte_eq_findIdx? (text : List Byte) : firstBadByte text = text.findIdx? (fun b => !printable b) := by
  induction text with
  | nil => rfl
  | cons b rest ih =>
    rw [firstBadByte, List.findIdx?_cons, ih]
    cases printable b <;> rfl

/-- The byte found is bad, and every byte before it is printable. -/
theorem firstBadByte_eq_some_iff (text : List Byte) (pos : Nat) :
    firstBadByte text = some pos ↔
      (∃ b, text[pos]? = some b ∧ ¬ printable b = true) ∧
        ∀ i b, i < pos → text[i]? = some b → printable b = true := by
  rw [firstBadByte_eq_findIdx?, List.findIdx?_eq_some_iff_getElem]
  simp only [Bool.not_eq_true', Bool.not_eq_false, Bool.not_eq_true, List.getElem?_eq_some_iff]
  constructor
  · rintro ⟨hpos, hbad, hbefore⟩
    refine ⟨⟨_, ⟨hpos, rfl⟩, hbad⟩, ?_⟩
    rintro i _ hi ⟨_, rfl⟩
    exact hbefore i hi
  · rintro ⟨⟨_, ⟨hpos, rfl⟩, hbad⟩, hbefore⟩
    exact ⟨hpos, hbad, fun i hi => hbefore i _ hi ⟨hi.trans hpos, rfl⟩⟩

theorem validate_eq_emptyProgram_iff (text : List Byte) : validate text = some .emptyProgram ↔ text = [] := by
  unfold validate
  split
  · next hempty => simp [List.length_eq_zero_iff.1 hempty]
  · next hempty =>
    have hne : text ≠ [] := fun h => hempty (List.length_eq_zero_iff.2 h)
    split <;> simp [hne]

theorem validate_eq_tooLarge_iff (text : List Byte) : validate text = some .tooLarge ↔ 59049 < text.length := by
  unfold validate
  split
  · next hempty => simp [hempty]
  · split
    · next hlarge => simp [hlarge]
    · next hlarge => simp [hlarge]

theorem validate_eq_invalidByte_iff (text : List Byte) (pos : Nat) :
    validate text = some (.invalidByte pos) ↔ text.length ≤ 59049 ∧ firstBadByte text = some pos := by
  unfold validate
  split
  · next hempty => simp [List.length_eq_zero_iff.1 hempty, firstBadByte]
  · split
    · next hlarge => simp [not_le.2 hlarge]
    · next hlarge => simp [not_lt.1 hlarge]

theorem load_eq_failed_iff {P : Params} {text input : List Byte} {kind : LoadErrorKind} :
    load P text input = .failed kind ↔ validate text = some kind := by
  unfold load
  split
  · next found hfound => simp [hfound]
  · next hnone => simp [hnone]

/-- Settles O51: a load fails as `validate` does, one equivalence for each of the three checks. -/
theorem loadErrorsInOrder : Obligations.LoadErrorsInOrder := by
  intro P text input
  simp only [load_eq_failed_iff, ← printable_iff]
  refine ⟨validate_eq_emptyProgram_iff text, validate_eq_tooLarge_iff text, fun pos => ?_⟩
  rw [validate_eq_invalidByte_iff, firstBadByte_eq_some_iff]

end Sys2Proof.Machine
end

section
/-! PROOFS for 20_memory.md, section 3 (two canonical memories that read alike are one), and for 70_reset_and_hazards.md:
what load checks (R202) and what it leaves (R203 to R205). A memory in canonical form lists exactly the slots that read
otherwise than load left them, so its cells can be told from its reads. -/

namespace Sys2Proof.Machine

/-! ## The cells of a canonical memory -/

/-- In a list with rising addresses no second cell at an address hides behind the one that a lookup finds. -/
theorem lookupCell_eq_some_iff_mem {l : List Cell} (h : l.Pairwise fun p q => p.1 < q.1) (x : Address) (v : Tryte) :
    lookupCell x l = some v ↔ (x, v) ∈ l := by
  induction l with
  | nil => simp [lookupCell]
  | cons cell rest ih =>
    obtain ⟨b, u⟩ := cell
    obtain ⟨hhead, hrest⟩ := List.pairwise_cons.1 h
    rw [lookupCell, List.mem_cons, Prod.mk.injEq]
    split
    · next hx =>
      subst b
      have hnotMem : (x, v) ∉ rest := fun hmem => (hhead _ hmem).ne rfl
      simp [hnotMem, eq_comm]
    · next hx => simp [hx, ih hrest]

/-- Canonical form: a cell is listed exactly where the slot reads otherwise than load left it. -/
theorem Memory.mem_cells_iff {m : Memory} (h : m.wf) (x : Address) (v : Tryte) :
    (x, v) ∈ m.cells ↔ m.read x = v ∧ v ≠ loadedWord m.image x := by
  obtain ⟨hsorted, hdiffers⟩ := m.wf_iff.1 h
  rw [← lookupCell_eq_some_iff_mem hsorted, Memory.read]
  split
  · next u hlisted =>
    have hu : u ≠ loadedWord m.image x := hdiffers _ ((lookupCell_eq_some_iff_mem hsorted x u).1 hlisted)
    rw [hlisted, Option.some.injEq]
    exact ⟨fun e => ⟨e, e ▸ hu⟩, And.left⟩
  · next hunlisted => simp [hunlisted, eq_comm]

/-- Cells in rising order are determined by which cells they are. -/
theorem cells_ext {l l' : List Cell} (h : l.Pairwise fun p q => p.1 < q.1) (h' : l'.Pairwise fun p q => p.1 < q.1)
    (hmem : ∀ p, p ∈ l ↔ p ∈ l') : l = l' :=
  have : Std.Irrefl fun p q : Cell => p.1 < q.1 := ⟨fun p => lt_irrefl p.1⟩
  have : Std.Antisymm fun p q : Cell => p.1 < q.1 := ⟨fun _ _ hpq hqp => absurd hqp hpq.asymm⟩
  h.eq_of_mem_iff h' hmem

/-- Settles O12: equal reads over one program mean the same listed cells, and their order is determined. -/
theorem equalReadsMeanEqualMemory : Obligations.EqualReadsMeanEqualMemory := by
  intro m m' hwf hwf' himage hread
  refine Memory.ext himage (cells_ext hwf.1 hwf'.1 fun ⟨x, v⟩ => ?_)
  rw [Memory.mem_cells_iff hwf, Memory.mem_cells_iff hwf', hread, himage]

/-! ## What load checks and what it leaves -/

theorem exists_load_eq_loaded_iff {P : Params} {text input : List Byte} :
    (∃ s, load P text input = .loaded s) ↔ validate text = none := by
  simp only [load_eq_loaded_iff, exists_and_left, exists_eq, and_true]

/-- Settles O50: a load succeeds exactly when `validate` finds no error, under whatever configuration. -/
theorem loadChecksThreeThings : Obligations.LoadChecksThreeThings := by
  intro P text input
  rw [exists_load_eq_loaded_iff, validate_eq_none_iff]
  simp only [printable_iff]

/-- Byte i stands at address i (70_reset_and_hazards.md R203, R204). -/
theorem loadedWord_programImage_of_getElem? {text : List Byte} {x : Address} {b : Byte} (h : text[x.val]? = some b) :
    loadedWord (programImage text) x = zext b := by
  simp [loadedWord, programImage, h]

/-- At and above the length of its program, a memory that load placed reads as FILL of the program
(70_reset_and_hazards.md R205). -/
theorem loadedWord_of_length_le {image : List Tryte} {x : Address} (h : image.length ≤ x.val) :
    loadedWord image x = Config.fill image x := by
  simp [loadedWord, List.getElem?_eq_none h]

/-- Settles O52: the state is `loadedState`, whose memory reads as the program and then as FILL. -/
theorem loadLeavesResetState : Obligations.LoadLeavesResetState := by
  intro P text input s hload
  obtain ⟨-, rfl⟩ := load_eq_loaded_iff.1 hload
  refine ⟨?program, ?fill, rfl, rfl, rfl, rfl, rfl, rfl, rfl, rfl, fun hP => load_inv hP hload⟩
  case program =>
    rintro _ b x hb rfl
    rw [loadedState, Memory.read_ofImage, loadedWord_programImage_of_getElem? hb, zext_val]
  case fill =>
    intro x hx
    have himage : (programImage text).length ≤ x.val := by rwa [programImage, List.length_map]
    rw [loadedState, Memory.read_ofImage, loadedWord_of_length_le himage, programImage]

end Sys2Proof.Machine
end
